-- ==== Sys2Proof/Word.lean ====
section
/-! DEFINITION. The value types of the block (spec R7, R18): bytes, frames, channels, curves and PWM vectors. -/

namespace Sys2Proof

/-- `Byte`, an integer in [0, 255] (R18). -/
abbrev Byte := BitVec 8

/-- A request or response frame: a byte sequence delivered whole (R70, R81). -/
abbrev Frame := List Byte

/-- `Channel`, an integer in [0, 17] (R18); channel `c` here is the source's channel `c + 1` (R13). -/
abbrev Channel := Fin 18

/-- `Curve`, exactly 256 bytes (R18). -/
abbrev Curve := Vector Byte 256

/-- `PwmVec`, exactly 18 bytes, element `k` for channel `k` (R18, R43). -/
abbrev PwmVec := Vector Byte 18

/-- The three group bytes of the enable-channels payload, lowest group first (R83). -/
abbrev GroupBytes := Vector Byte 3

end Sys2Proof
end

