-- ==== Sys2Proof/Syntax.lean ====
section
/-! DEFINITION. The syntax of the host port: the thirteen host operations (spec R78), their frame formats (R71 to R76), the
error kinds (R17, R181, R183) and the pseudo-instructions (R86). -/

namespace Sys2Proof

/-- One constructor per row of opcode_table.json (R78). A value list stands for the fields LEN and V or E of its frame:
LEN is the length of the list (R73, R74), log 21. -/
inductive Instr where
  | enable
  | disable
  | reset
  | enableLeds (mask : BitVec 32)
  | output (vals : List Byte)
  | outputRaw (vals : List Byte)
  | setChannelCurve (ch : Byte) (ents : List Byte)
  | resetToShared (exp : BitVec 64)
  | regenDefault (exp : BitVec 64)
  | encodeMask (mask : BitVec 32)
  | encodePwm (vals : List Byte)
  | generateCurve (exp : BitVec 64)
  | correct (ch : Byte) (raw : Byte)
  deriving DecidableEq, Repr

/-- The mnemonics of the opcode map (R78), without operands. -/
inductive Op where
  | enable | disable | reset | enableLeds | output | outputRaw | setChannelCurve | resetToShared | regenDefault
  | encodeMask | encodePwm | generateCurve | correct
  deriving DecidableEq, Repr

/-- Frame formats (R71 to R76). -/
inductive Format where
  | n | m | v | c | e | l
  deriving DecidableEq, Repr

/-- Reasons of an InvalidArgument (R183). -/
inductive Reason where
  | badLength | badCount | badChannel | badExponent
  deriving DecidableEq, Repr

/-- Error kinds (R17, R181). A transport error carries the command code of the failed write (R184), an illegal opcode the
opcode byte (R182). -/
inductive Error where
  | invalidArgument (reason : Reason)
  | transport (code : Byte)
  | illegalOpcode (op : Byte)
  deriving DecidableEq, Repr

/-- Pseudo-instructions (R86). -/
inductive Pseudo where
  | allOn | allOff | shutdown | recover | blank
  deriving DecidableEq, Repr

end Sys2Proof
end

