-- ==== Sys2Proof/WellFormed.lean ====
section
/-! DEFINITION. Well-formed instructions: those a frame can carry. LEN is 8 bits in format V (spec R73) and 16 bits in format
C (R74); every other operand has its width in its type. A count other than 18 or 256, a channel above 17 and an invalid
exponent are well-formed here: they are representable and refused by the operation itself (R73, R74, R183). -/

namespace Sys2Proof

/-- The operand count fits the LEN field of the frame. -/
def Instr.wellFormed : Instr → Bool
  | .enable => true
  | .disable => true
  | .reset => true
  | .enableLeds _ => true
  | .output vals => decide (vals.length < 256)
  | .outputRaw vals => decide (vals.length < 256)
  | .setChannelCurve _ ents => decide (ents.length < 65536)
  | .resetToShared _ => true
  | .regenDefault _ => true
  | .encodeMask _ => true
  | .encodePwm vals => decide (vals.length < 256)
  | .generateCurve _ => true
  | .correct _ _ => true

end Sys2Proof
end

