-- ==== Sys2Proof/Decode.lean ====
section
/-! DEFINITION. The decoder of host request frames (spec R70 to R80), total on any byte sequence and refusing by the error the
spec names; after it the encoder, written from the same tables, and the layout of an opcode-table word as a frame. -/

namespace Sys2Proof

/-- The opcode map (R78) read from the byte: bytes 0x00 and 0x0E to 0xFF name no operation (R79). -/
def Op.ofCode (b : Byte) : Option Op :=
  match b.toNat with
  | 0x01 => some .enable
  | 0x02 => some .disable
  | 0x03 => some .reset
  | 0x04 => some .enableLeds
  | 0x05 => some .output
  | 0x06 => some .outputRaw
  | 0x07 => some .setChannelCurve
  | 0x08 => some .resetToShared
  | 0x09 => some .regenDefault
  | 0x0A => some .encodeMask
  | 0x0B => some .encodePwm
  | 0x0C => some .generateCurve
  | 0x0D => some .correct
  | _ => none

/-- The frame format of an operation (R78). -/
def Op.format : Op → Format
  | .enable | .disable | .reset => .n
  | .enableLeds | .encodeMask => .m
  | .output | .outputRaw | .encodePwm => .v
  | .setChannelCurve => .c
  | .resetToShared | .regenDefault | .generateCurve => .e
  | .correct => .l

/-- A 16-bit little-endian field (R45, R74). -/
def le16 (l0 l1 : Byte) : BitVec 16 := l1 ++ l0

/-- A 32-bit little-endian field (R45, R72). -/
def le32 (m0 m1 m2 m3 : Byte) : BitVec 32 := m3 ++ m2 ++ m1 ++ m0

/-- A 64-bit little-endian field (R45, R75). -/
def le64 (x0 x1 x2 x3 x4 x5 x6 x7 : Byte) : BitVec 64 := x7 ++ x6 ++ x5 ++ x4 ++ x3 ++ x2 ++ x1 ++ x0

/-- Format N: no operands (R71). -/
def bodyN (i : Instr) : Frame → Option Instr
  | [] => some i
  | _ => none

/-- Format M: a 32-bit mask (R72). -/
def bodyM (mk : BitVec 32 → Instr) : Frame → Option Instr
  | [m0, m1, m2, m3] => some (mk (le32 m0 m1 m2 m3))
  | _ => none

/-- Format V: an 8-bit LEN and that many bytes (R73). -/
def bodyV (mk : List Byte → Instr) : Frame → Option Instr
  | len :: vals => if vals.length = len.toNat then some (mk vals) else none
  | _ => none

/-- Format C: a channel byte, a 16-bit LEN and that many bytes (R74). -/
def bodyC (mk : Byte → List Byte → Instr) : Frame → Option Instr
  | ch :: l0 :: l1 :: ents => if ents.length = (le16 l0 l1).toNat then some (mk ch ents) else none
  | _ => none

/-- Format E: the 64 bits of a binary64 value (R75). -/
def bodyE (mk : BitVec 64 → Instr) : Frame → Option Instr
  | [x0, x1, x2, x3, x4, x5, x6, x7] => some (mk (le64 x0 x1 x2 x3 x4 x5 x6 x7))
  | _ => none

/-- Format L: a channel byte and a raw byte (R76). -/
def bodyL (mk : Byte → Byte → Instr) : Frame → Option Instr
  | [ch, raw] => some (mk ch raw)
  | _ => none

/-- The operands of an operation, read from the bytes after the opcode; none where the frame length does not fit the format
(R80). -/
def decodeBody : Op → Frame → Option Instr
  | .enable => bodyN .enable
  | .disable => bodyN .disable
  | .reset => bodyN .reset
  | .enableLeds => bodyM .enableLeds
  | .output => bodyV .output
  | .outputRaw => bodyV .outputRaw
  | .setChannelCurve => bodyC .setChannelCurve
  | .resetToShared => bodyE .resetToShared
  | .regenDefault => bodyE .regenDefault
  | .encodeMask => bodyM .encodeMask
  | .encodePwm => bodyV .encodePwm
  | .generateCurve => bodyE .generateCurve
  | .correct => bodyL .correct

/-- `Decode(f)` (R80): empty frame, then opcode, then length, in that order (R185). -/
def decode : Frame → Except Error Instr
  | [] => .error (.invalidArgument .badLength)
  | op :: body =>
    match Op.ofCode op with
    | none => .error (.illegalOpcode op)
    | some o =>
      match decodeBody o body with
      | none => .error (.invalidArgument .badLength)
      | some i => .ok i

/-! The encoder. -/

/-- The opcode byte of a mnemonic (R78). -/
def Op.code : Op → Byte
  | .enable => 0x01
  | .disable => 0x02
  | .reset => 0x03
  | .enableLeds => 0x04
  | .output => 0x05
  | .outputRaw => 0x06
  | .setChannelCurve => 0x07
  | .resetToShared => 0x08
  | .regenDefault => 0x09
  | .encodeMask => 0x0A
  | .encodePwm => 0x0B
  | .generateCurve => 0x0C
  | .correct => 0x0D

/-- The mnemonic of an instruction (R78). -/
def Instr.op : Instr → Op
  | .enable => .enable
  | .disable => .disable
  | .reset => .reset
  | .enableLeds _ => .enableLeds
  | .output _ => .output
  | .outputRaw _ => .outputRaw
  | .setChannelCurve _ _ => .setChannelCurve
  | .resetToShared _ => .resetToShared
  | .regenDefault _ => .regenDefault
  | .encodeMask _ => .encodeMask
  | .encodePwm _ => .encodePwm
  | .generateCurve _ => .generateCurve
  | .correct _ _ => .correct

/-- Byte `k` of a value, byte 0 its bits 7:0 (R10, R45). -/
def byteOf {w : Nat} (v : BitVec w) (k : Nat) : Byte := v.extractLsb' (8 * k) 8

/-- The bytes of a 32-bit field, lowest first (R72). -/
def bytes32 (v : BitVec 32) : Frame := [byteOf v 0, byteOf v 1, byteOf v 2, byteOf v 3]

/-- The bytes of a 64-bit field, lowest first (R75). -/
def bytes64 (v : BitVec 64) : Frame :=
  [byteOf v 0, byteOf v 1, byteOf v 2, byteOf v 3, byteOf v 4, byteOf v 5, byteOf v 6, byteOf v 7]

/-- LEN and the values of format V (R73). -/
def encodeV (vals : List Byte) : Frame := BitVec.ofNat 8 vals.length :: vals

/-- The bytes after the opcode (R71 to R76). -/
def encodeBody : Instr → Frame
  | .enable => []
  | .disable => []
  | .reset => []
  | .enableLeds mask => bytes32 mask
  | .output vals => encodeV vals
  | .outputRaw vals => encodeV vals
  | .setChannelCurve ch ents =>
    ch :: byteOf (BitVec.ofNat 16 ents.length) 0 :: byteOf (BitVec.ofNat 16 ents.length) 1 :: ents
  | .resetToShared exp => bytes64 exp
  | .regenDefault exp => bytes64 exp
  | .encodeMask mask => bytes32 mask
  | .encodePwm vals => encodeV vals
  | .generateCurve exp => bytes64 exp
  | .correct ch raw => [ch, raw]

/-- The request frame of a well-formed instruction (R71 to R78). -/
def encode (i : Instr) : Frame := i.op.code :: encodeBody i

/-- The length of the frame whose byte `k` is `b k`, by the format of its opcode and the LEN field inside (R71 to R76); one
byte where the opcode names no operation. -/
def frameLength (b : Nat → Byte) : Nat :=
  match Op.ofCode (b 0) with
  | none => 1
  | some o =>
    match o.format with
    | .n => 1
    | .m => 5
    | .v => 2 + (b 1).toNat
    | .c => 4 + (le16 (b 2) (b 3)).toNat
    | .e => 9
    | .l => 3

/-- The frame of an instruction given by its table word: byte `k` of the frame is bits 8k+7:8k of the word, bits above `nbits`
are zero, and the frame is as long as its format says, at least the bytes given (log 15). -/
def frameOfWord (nbits w : Nat) : Frame :=
  let b : Nat → Byte := fun k => BitVec.ofNat 8 ((w % 2 ^ nbits) >>> (8 * k))
  (List.range (max ((nbits + 7) / 8) (frameLength b))).map b

/-- The instruction the decoder reads from a table word. -/
def decodeTableWord (nbits w : Nat) : Option Instr :=
  match decode (frameOfWord nbits w) with
  | .ok i => some i
  | .error _ => none

/-- The operations a pseudo-instruction stands for, in order (R86). -/
def Pseudo.expand : Pseudo → List Instr
  | .allOn => [.enableLeds 0x3FFFF]
  | .allOff => [.enableLeds 0x0]
  | .shutdown => [.reset, .disable]
  | .recover => [.reset, .enable]
  | .blank => [.outputRaw (List.replicate 18 0)]

end Sys2Proof
end

