-- ==== Sys2Proof/Config.lean ====
section
/-! DEFINITION. Configuration: the fixed parameters (spec R7, R8, R84), the default curve table (R122), the registers of the
reference device (R50), and the open parameters and free draws (R9, R27, R55, R58, R59) as constants WITHOUT a body, so that
no proof can lean on a value of theirs. -/

namespace Sys2Proof

/-- Registers of the reference device (R50). `oe` is the output-enable register (true = enabled, false = software shutdown);
stage registers hold what was written, live registers what drives the outputs. -/
structure Device where
  oe       : Bool
  pwmStage : Vector Byte 18
  pwmLive  : Vector Byte 18
  enStage  : Vector (BitVec 6) 3
  enLive   : Vector (BitVec 6) 3
  deriving DecidableEq, Repr, Inhabited

/-- A name for each register of the reference device (R50), by which the free draws are told apart. -/
inductive DevReg where
  | oe
  | pwmStage (k : Fin 18)
  | pwmLive (k : Fin 18)
  | enStage (g : Fin 3)
  | enLive (g : Fin 3)
  deriving DecidableEq, Repr

namespace Config

/-- `DEV_ADDR`, the fixed 7-bit address of the one device (R7, R42). -/
def devAddr : BitVec 7 := 0x54#7

/-- `DEFAULT_EXP = 1.4` as the binary64 operand the spec gives for it, 0x3FF6666666666666 (R7, R121). -/
def defaultExp : BitVec 64 := 0x3FF6666666666666#64

/-- The table of R122, sixteen entries a row. -/
def defaultCurveTable : List Byte :=
  [0, 0, 0, 1, 1, 1, 1, 2, 2, 2, 3, 3, 4, 4, 4, 5] ++
  [5, 6, 6, 7, 7, 8, 8, 9, 9, 10, 10, 11, 12, 12, 13, 13] ++
  [14, 15, 15, 16, 16, 17, 18, 18, 19, 20, 20, 21, 22, 22, 23, 24] ++
  [25, 25, 26, 27, 28, 28, 29, 30, 31, 31, 32, 33, 34, 34, 35, 36] ++
  [37, 38, 38, 39, 40, 41, 42, 43, 43, 44, 45, 46, 47, 48, 49, 49] ++
  [50, 51, 52, 53, 54, 55, 56, 57, 57, 58, 59, 60, 61, 62, 63, 64] ++
  [65, 66, 67, 68, 69, 70, 71, 72, 73, 74, 75, 76, 77, 78, 79, 80] ++
  [81, 82, 83, 84, 85, 86, 87, 88, 89, 90, 91, 92, 93, 94, 95, 96] ++
  [97, 98, 99, 100, 101, 103, 104, 105, 106, 107, 108, 109, 110, 111, 112, 113] ++
  [115, 116, 117, 118, 119, 120, 121, 122, 124, 125, 126, 127, 128, 129, 130, 132] ++
  [133, 134, 135, 136, 137, 139, 140, 141, 142, 143, 145, 146, 147, 148, 149, 151] ++
  [152, 153, 154, 155, 157, 158, 159, 160, 161, 163, 164, 165, 166, 168, 169, 170] ++
  [171, 173, 174, 175, 176, 178, 179, 180, 181, 183, 184, 185, 187, 188, 189, 190] ++
  [192, 193, 194, 196, 197, 198, 200, 201, 202, 203, 205, 206, 207, 209, 210, 211] ++
  [213, 214, 215, 217, 218, 219, 221, 222, 223, 225, 226, 227, 229, 230, 232, 233] ++
  [234, 236, 237, 238, 240, 241, 242, 244, 245, 247, 248, 249, 251, 252, 254, 255]

/-- The default curve, the reset value of `GLUT.shared` (R25, R32, R122). -/
def defaultCurve : Curve := ⟨defaultCurveTable.toArray, by decide +kernel⟩

/-- `DEV_POR`, the device's power-on register values (R59): an open parameter, log 6. -/
opaque devPor : Device

/-- The device's registers as the block finds them at its reset (R211, R213): the power-on values, or whatever an earlier host
left; not known, log 6. -/
opaque devAtReset : Device

/-- `RESET_AFFECTS_LATCHED` (R9, R55): whether the device's reset command gives a live register its power-on value without a
latch; open, and read per live register ("each live register either keeps its value or takes its `DEV_POR` value"), log 7. -/
opaque resetAffectsLatched : DevReg → Bool

/-- `RESET_AFFECTS_SHUTDOWN = false`, the value the source fixes (R9, R55), log 8. -/
def resetAffectsShutdown : Bool := false

/-- The draws of R58: draw number `n`, for one register of the device, after a bus write that did not return ok, log 9. -/
opaque draw : Nat → DevReg → Bool

/-- The unspecified contents of the override stores after the block reset numbered `n` (R27, R32, U6), log 5. -/
opaque ovrAtReset : Nat → Vector Curve 18

end Config

end Sys2Proof
end

