-- ==== Sys2Proof/Machine/State.lean ====
section
/-! DEFINITION. The state of the block (spec R22), the registers of the reference device (R50), and the two ports: the frames
delivered and not yet served, the responses and bus writes made so far (the observation of a run, R222), and the answers of
the transport to come. Plain data throughout. -/

namespace Sys2Proof.Machine

/-- The five bus commands of R42 with their payloads. -/
inductive BusCmd where
  /-- 0x00, enable or disable output. -/
  | outputEnable (on : Bool)
  /-- 0x01, set PWM values. -/
  | setPwm (v : PwmVec)
  /-- 0x13, enable channels. The type also holds group bytes with bits 7:6 set, which the block never sends (log 17). -/
  | enableChannels (b : GroupBytes)
  /-- 0x16, update / latch. -/
  | latch
  /-- 0x17, reset. -/
  | deviceReset
  deriving DecidableEq, Repr

/-- How the transport answers a bus write: `ok` or `fail` (R44), or `never` when the write does not return (R221, U12). -/
inductive BusResult where
  | ok | fail | never
  deriving DecidableEq, Repr

/-- One bus write as it was issued (R44, R82): address, command code, payload and how it was answered. -/
structure BusEvent where
  addr    : BitVec 7
  code    : Byte
  payload : List Byte
  result  : BusResult
  deriving DecidableEq, Repr

/-- What the outside delivers to the block, in order: a request frame (R49, R70) or the block reset input (R210). -/
inductive Stimulus where
  | frame (f : Frame)
  | blockReset
  deriving DecidableEq, Repr

/-- The whole state; see INVENTORY.md, State.
`enabled`, `shared`, `ovrValid`, `ovr` are the block's architectural state (R22); `dev` is the reference device (R50);
`inbox` is the host frame stream not yet served (R40, R21); `responses` and `busLog` are what was observed so far, oldest
first (R222); `transport` holds the answers to the next bus writes, first the next, and a write beyond its end is answered
ok (log 2); `waiting` is the bus write the block is hung in (R221); `draws` numbers the free draws (log 11). -/
structure State where
  enabled   : Bool
  shared    : Curve
  ovrValid  : Vector Bool 18
  ovr       : Vector Curve 18
  dev       : Device
  inbox     : List Stimulus
  responses : List Frame
  busLog    : List BusEvent
  transport : List BusResult
  waiting   : Option BusCmd
  draws     : Nat
  deriving DecidableEq, Repr

/-- Why the machine stops. -/
inductive Fault where
  /-- Raised by the step of a block that is hung in a bus write which never returns: "no response and no further step" (R221,
  U12). Safe: nothing is claimed of a block that goes on. -/
  | busWriteNeverReturned
  deriving DecidableEq, Repr

/-- Why an instruction has no meaning. -/
inductive Refusal where
  /-- Raised by `exec` for an instruction whose meaning is not written; no instruction of this model is. Safe. -/
  | notModelled (mnemonic : String)
  deriving DecidableEq, Repr

/-- What the block finds at its host port. -/
inductive Fetched where
  /-- Nothing is delivered (R222: the run is over, or the host is not ready). -/
  | idle
  /-- A frame waits or nothing does, and the block is hung in a bus write (R221). -/
  | stuck
  /-- The block reset input (R210). -/
  | blockReset (s : State)
  /-- The next request frame, and the state with that frame taken (R21). -/
  | request (f : Frame) (s : State)
  deriving DecidableEq, Repr

/-- The machine right after the block reset with nothing delivered yet (R32, R210, R211). -/
def State.reset : State where
  enabled   := false
  shared    := Config.defaultCurve
  ovrValid  := Vector.replicate 18 false
  ovr       := Config.ovrAtReset 0
  dev       := Config.devAtReset
  inbox     := []
  responses := []
  busLog    := []
  transport := []
  waiting   := none
  draws     := 1

end Sys2Proof.Machine
end

