-- ==== Sys2Proof/Machine/Device.lean ====
section
/-! DEFINITION. The bus commands as they stand on the bus (spec R42, R82, R84) and the reference device they act on
(R50 to R60). -/

namespace Sys2Proof.Machine

/-- The command code (R42). -/
def BusCmd.code : BusCmd → Byte
  | .outputEnable _ => 0x00
  | .setPwm _ => 0x01
  | .enableChannels _ => 0x13
  | .latch => 0x16
  | .deviceReset => 0x17

/-- The payload, element 0 sent first (R42, R43, R84). -/
def BusCmd.payload : BusCmd → List Byte
  | .outputEnable on => [if on then 0x01 else 0x00]
  | .setPwm v => v.toList
  | .enableChannels b => b.toList
  | .latch => [0xFF]
  | .deviceReset => [0xFF]

/-- The bus command a code and payload stand for; none for a code, a payload length or a fixed payload value that R42 does not
list, for which the reference device has no rule (U7). Group bytes with bits 7:6 set are read as they are, although the block
never sends them (log 17); what the device does with them is a choice, see `accept`. -/
def BusCmd.ofWire (code : Byte) (payload : List Byte) : Option BusCmd :=
  if code = 0x00 then
    if payload = [0x01] then some (.outputEnable true) else if payload = [0x00] then some (.outputEnable false) else none
  else if code = 0x01 then
    if h : payload.length = 18 then some (.setPwm ⟨payload.toArray, by simpa using h⟩) else none
  else if code = 0x13 then
    if h : payload.length = 3 then some (.enableChannels ⟨payload.toArray, by simpa using h⟩) else none
  else if code = 0x16 then if payload = [0xFF] then some .latch else none
  else if code = 0x17 then if payload = [0xFF] then some .deviceReset else none
  else none

/-- What a command that returned ok does to the device (R51 to R55). DESIGN CHOICE: bits 7:6 of a group byte, whose effect R53
and U7 leave open when one is set, are dropped (log 22); the block always sends them as 0. -/
def accept (c : BusCmd) (d : Device) : Device :=
  match c with
  | .outputEnable on => { d with oe := on }
  | .setPwm v => { d with pwmStage := v }
  | .enableChannels b => { d with enStage := Vector.ofFn fun g : Fin 3 => b[g].extractLsb' 0 6 }
  | .latch => { d with pwmLive := d.pwmStage, enLive := d.enStage }
  | .deviceReset =>
    { oe := if Config.resetAffectsShutdown then Config.devPor.oe else d.oe
      pwmStage := Config.devPor.pwmStage
      enStage := Config.devPor.enStage
      pwmLive := Vector.ofFn fun k : Fin 18 =>
        if Config.resetAffectsLatched (.pwmLive k) then Config.devPor.pwmLive[k] else d.pwmLive[k]
      enLive := Vector.ofFn fun g : Fin 3 =>
        if Config.resetAffectsLatched (.enLive g) then Config.devPor.enLive[g] else d.enLive[g] }

/-- Each register its old or its new value, as `pick` says for that register. -/
def mixDevices (pick : DevReg → Bool) (old new : Device) : Device where
  oe := if pick .oe then new.oe else old.oe
  pwmStage := Vector.ofFn fun k : Fin 18 => if pick (.pwmStage k) then new.pwmStage[k] else old.pwmStage[k]
  pwmLive := Vector.ofFn fun k : Fin 18 => if pick (.pwmLive k) then new.pwmLive[k] else old.pwmLive[k]
  enStage := Vector.ofFn fun g : Fin 3 => if pick (.enStage g) then new.enStage[g] else old.enStage[g]
  enLive := Vector.ofFn fun g : Fin 3 => if pick (.enLive g) then new.enLive[g] else old.enLive[g]

/-- The device after a command that did not return ok: `DEV.oe` is any value after a 0x00 write, and each register the
command addresses is its old or its new value after any other; `n` numbers the draw (R58). A write that never returns is
drawn in the same way (log 3). -/
def afterFailed (n : Nat) (c : BusCmd) (d : Device) : Device :=
  match c with
  | .outputEnable _ => { d with oe := Config.draw n .oe }
  | .setPwm _ | .enableChannels _ | .latch | .deviceReset => mixDevices (Config.draw n) d (accept c d)

/-- The output of a channel: the PWM value it is driven at, or none when it is off (R56). -/
def outputOf (d : Device) (c : Channel) : Option Byte :=
  if d.oe && (d.enLive[c.val / 6]'(by omega)).getLsbD (c.val % 6) then some d.pwmLive[c] else none

end Sys2Proof.Machine
end

