-- ==== Sys2Proof/Machine/Flags.lean ====
section
/-! DEFINITION. The block has no condition flags (spec R14, R20): an operation's outcome is its response status (R81, R181),
and the only status level is ENABLED_OUT (R24). This file holds the status and info bytes and that level. -/

namespace Sys2Proof.Machine

/-- The output ENABLED_OUT (R24). -/
def State.enabledOut (s : State) : Bool := s.enabled

/-- The status byte of a successful operation (R181). -/
def statusOk : Byte := 0x00

/-- The reason codes of InvalidArgument (R183). -/
def reasonByte : Reason → Byte
  | .badLength => 0x01
  | .badCount => 0x02
  | .badChannel => 0x03
  | .badExponent => 0x04

/-- The status code of an error (R181). -/
def errorStatus : Error → Byte
  | .invalidArgument _ => 0x01
  | .transport _ => 0x02
  | .illegalOpcode _ => 0x03

/-- The info byte of an error (R181): the reason (R183), the command code of the failed write (R184) or the opcode (R182). -/
def errorInfo : Error → Byte
  | .invalidArgument r => reasonByte r
  | .transport code => code
  | .illegalOpcode op => op

end Sys2Proof.Machine
end

