-- ==== Sys2Proof/Machine/Operands.lean ====
section
/-! DEFINITION. Operand forms: the checks of a count, a channel and an exponent (spec R18, R124, R183), a binary64 operand as
an exact fraction (R12, R75), and the two translations of the register encoder (R101, R102). -/

namespace Sys2Proof.Machine

/-- A channel operand: none above 17 (R18, R183 BAD_CHANNEL). -/
def channelOf (ch : Byte) : Option Channel :=
  if h : ch.toNat < 18 then some ⟨ch.toNat, h⟩ else none

/-- A vector operand: none unless it has exactly 18 values (R18, R183 BAD_COUNT). -/
def pwmVecOf (vals : List Byte) : Option PwmVec :=
  if h : vals.length = 18 then some ⟨vals.toArray, by simpa using h⟩ else none

/-- A curve operand: none unless it has exactly 256 entries (R18, R183 BAD_COUNT). -/
def curveOf (ents : List Byte) : Option Curve :=
  if h : ents.length = 256 then some ⟨ents.toArray, by simpa using h⟩ else none

/-- Entry `i` of a curve (R41). -/
def entry (curve : Curve) (i : Byte) : Byte := curve[i.toNat]'i.isLt

/-- The biased exponent field, bits 62:52 (R75). -/
def expField (x : BitVec 64) : Nat := (x.extractLsb' 52 11).toNat

/-- The fraction field, bits 51:0 (R75). -/
def fracField (x : BitVec 64) : Nat := (x.extractLsb' 0 52).toNat

/-- A valid exponent is finite and strictly greater than zero; positive subnormals are valid (R124). -/
def validExponent (x : BitVec 64) : Bool :=
  !x.getLsbD 63 && decide (expField x ≠ 2047) && decide (x ≠ 0)

/-- The significand of a finite binary64 value as an integer: the value is `significand x * 2 ^ (scale x - 1075)`, a subnormal
having no hidden bit and the scale of the smallest normal (R75). -/
def significand (x : BitVec 64) : Nat := if expField x = 0 then fracField x else 2 ^ 52 + fracField x

/-- See `significand`. -/
def scale (x : BitVec 64) : Nat := if expField x = 0 then 1 else expField x

/-- The exact value of a finite positive binary64 number is `expNum x / expDen x` (R12: "the exact real value of the binary64
number e"), in lowest terms. -/
def expNum (x : BitVec 64) : Nat :=
  let p := significand x * 2 ^ (scale x - 1075)
  p / Nat.gcd p (2 ^ (1075 - scale x))

/-- See `expNum`. -/
def expDen (x : BitVec 64) : Nat :=
  let q := 2 ^ (1075 - scale x)
  q / Nat.gcd (significand x * 2 ^ (scale x - 1075)) q

/-- The enable-mask encoder `EncMask` (R101, R83). -/
def encMask (mask : BitVec 32) : GroupBytes :=
  #v[(mask.extractLsb' 0 6).setWidth 8, (mask.extractLsb' 6 6).setWidth 8, (mask.extractLsb' 12 6).setWidth 8]

/-- The PWM encoder `EncPwm`, the identity on 18 bytes (R102). -/
def encPwm (v : PwmVec) : PwmVec := v

end Sys2Proof.Machine
end

