-- ==== Sys2Proof/Machine/Gamma.lean ====
section
/-! DEFINITION. The curve generator GAMMA_GEN, exact (spec R120, R121, R12).

With the exponent the exact fraction p / q, entry i of the curve is 255 * (i/255)^(p/q) rounded to nearest, ties to even. It
is above j + 1/2 exactly when (2j+1)^q * 255^p < i^p * 510^q, an inequality between natural numbers, and on the tie exactly
when the two are equal; `exactAbove` says so. The powers are far too long to write out (1.4 has q = 2^51), so the comparison
is first tried on enclosures of them: a number m * 2^s with m of about 130 to 160 bits, rounded down or up at every squaring.
Where the enclosures do not touch they decide; where they touch, `exactAbove` does. So `roundsAbove` is `exactAbove`, always
(Laws/Gamma.lean proves it), and the enclosures only make it short to evaluate. -/

namespace Sys2Proof.Machine

/-- Entry `i` at exponent p / q rounds to more than `j`: its exact value is above j + 1/2, or on it with `j` odd (R12, R121). -/
def exactAbove (p q i j : Nat) : Bool :=
  decide ((2 * j + 1) ^ q * 255 ^ p < i ^ p * 510 ^ q) ||
    (decide ((2 * j + 1) ^ q * 255 ^ p = i ^ p * 510 ^ q) && decide (j % 2 = 1))

/-- The number `m * 2 ^ s`. -/
structure Scaled where
  m : Nat
  s : Nat
  deriving DecidableEq, Repr

/-- `f n`, evaluating `n` first. -/
@[inline] def force {α : Type} (n : Nat) (f : Nat → α) : α :=
  match n with
  | 0 => f 0
  | k + 1 => f (k + 1)

/-- How many low bits of `w` to drop so that some 130 to 160 stay. -/
def excess (w : Nat) : Nat :=
  bif Nat.blt w (2 ^ 192) then
    bif Nat.blt w (2 ^ 160) then bif Nat.blt w (2 ^ 144) then 0 else 16
    else bif Nat.blt w (2 ^ 176) then 32 else 48
  else bif Nat.blt w (2 ^ 256) then
    bif Nat.blt w (2 ^ 224) then bif Nat.blt w (2 ^ 208) then 64 else 80
    else bif Nat.blt w (2 ^ 240) then 96 else 112
  else bif Nat.blt w (2 ^ 272) then 128
  else bif Nat.blt w (2 ^ 288) then 144 else 160

/-- Square and multiply over the low `k` bits of `n`, highest first, from `m * 2 ^ s`; each result is rounded down
(`up = 0`) or up (`up = 1`). -/
def powLoop (up b n : Nat) : Nat → Nat → Nat → Scaled
  | 0, m, s => ⟨m, s⟩
  | k + 1, m, s =>
    force (m * m * b ^ (n >>> k % 2)) fun w =>
    force (excess w) fun d =>
    force ((w + up * (1 <<< d - 1)) >>> d) fun m' =>
    force (s + s + d) fun s' =>
    powLoop up b n k m' s'

/-- At most `b ^ n`, for `n` of at most `k` bits. -/
def powDown (b k n : Nat) : Scaled := powLoop 0 b n k 1 0

/-- At least `b ^ n`, for `n` of at most `k` bits. -/
def powUp (b k n : Nat) : Scaled := powLoop 1 b n k 1 0

/-- The product. -/
def Scaled.mul (a b : Scaled) : Scaled := ⟨a.m * b.m, a.s + b.s⟩

/-- Scaled numbers whose scales differ by more than this many bits are told apart without shifting. -/
def window : Nat := 1024

/-- `true` only if `a` is less than `b`. -/
def Scaled.less (a b : Scaled) : Bool :=
  bif Nat.ble a.s b.s then
    bif Nat.ble (b.s - a.s) window then Nat.blt a.m (b.m <<< (b.s - a.s))
    else Nat.blt a.m (2 ^ window) && Nat.blt 0 b.m
  else bif Nat.ble (a.s - b.s) window then Nat.blt (a.m <<< (a.s - b.s)) b.m
  else false

/-- `f a`, evaluating the two numbers of `a` first. -/
@[inline] def Scaled.forced {α : Type} (a : Scaled) (f : Scaled → α) : α :=
  match a with
  | ⟨m, s⟩ => force m fun m => force s fun s => f ⟨m, s⟩

/-- `true` only if `a * b` is less than `c * d`. -/
def productLess (a b c d : Scaled) : Bool :=
  a.forced fun a => b.forced fun b => c.forced fun c => d.forced fun d =>
  (a.mul b).forced fun x => (c.mul d).forced fun y => x.less y

/-- `exactAbove p q i j`, for `p` of at most `kp` bits and `q` of at most `kq`, decided on enclosures where they do. -/
def roundsAbove (kp p kq q i j : Nat) : Bool :=
  bif productLess (powUp (2 * j + 1) kq q) (powUp 255 kp p) (powDown i kp p) (powDown 510 kq q) then true
  else bif productLess (powUp i kp p) (powUp 510 kq q) (powDown (2 * j + 1) kq q) (powDown 255 kp p) then false
  else exactAbove p q i j

/-- The largest n ≤ 255 that is 0 or has `roundsAbove` at n - 1, found bit by bit from bit `k - 1` down. -/
def searchEntry (kp p kq q i : Nat) : Nat → Nat → Nat
  | 0, n => n
  | k + 1, n =>
    force (n + 2 ^ k) fun c =>
    bif roundsAbove kp p kq q i (c - 1) then searchEntry kp p kq q i k c else searchEntry kp p kq q i k n

/-- One entry of the curve at exponent p / q (R121): entry 0 is 0, entry 255 is 255 * 1^e = 255. -/
def gammaEntry (kp p kq q i : Nat) : Nat :=
  if i = 0 then 0 else if i = 255 then 255 else searchEntry kp p kq q i 8 0

/-- `GAMMA_GEN(e)` for a valid exponent (R120, R121). -/
def gammaGen (x : BitVec 64) : Curve :=
  force (expNum x) fun p => force (expDen x) fun q =>
  force (p.log2 + 1) fun kp => force (q.log2 + 1) fun kq =>
  Vector.ofFn fun i : Fin 256 => BitVec.ofNat 8 (gammaEntry kp p kq q i.val)

end Sys2Proof.Machine
end

