-- ==== Sys2Proof/Machine/Ops.lean ====
section
/-! DEFINITION. The named operations over the state: responding and raising an error (spec R81, R180), one bus write (R44),
the write-then-latch sequence (R151), the look-up and the writes of the LUT (R27, R127, R129), the block reset (R210) and the
host port (R21, R49). -/

namespace Sys2Proof.Machine

/-- `respond(status, bytes)`: the response frame is produced (R11, R81). -/
def respond (status : Byte) (bytes : List Byte) (s : State) : State :=
  { s with responses := s.responses ++ [status :: bytes] }

/-- `respond(OK, bytes)` (R81). -/
def respondOk (bytes : List Byte) (s : State) : State := respond statusOk bytes s

/-- `raise e`: the one operation by which an error ends an operation (R180, R186). Nothing is saved, no mode changes, control
goes nowhere: the error response `[status, info]` is produced and nothing else changes. There is no return from it (R187):
the next request runs as if the operation had succeeded. -/
def raise (e : Error) (s : State) : State := respond (errorStatus e) [errorInfo e] s

/-- The answer of the transport to the k-th bus write from now; beyond the listed answers a write returns ok (log 2). -/
def State.reply (s : State) (k : Nat) : BusResult := s.transport.getD k .ok

/-- The write is on the bus and is answered `r` (R42, R44): the device takes it (R51 to R55), or is left as R58 says; a write
that never returns leaves the block waiting in it (R221). -/
def issue (c : BusCmd) (r : BusResult) (s : State) : State :=
  { s with
    dev := match r with
      | .ok => accept c s.dev
      | .fail | .never => afterFailed s.draws c s.dev
    busLog := s.busLog ++ [⟨Config.devAddr, c.code, c.payload, r⟩]
    transport := s.transport.tail
    waiting := match r with
      | .ok | .fail => s.waiting
      | .never => some c
    draws := match r with
      | .ok => s.draws
      | .fail | .never => s.draws + 1 }

/-- `if BusWrite(c) = fail then raise TransportError(code of c)`, else go on with `k`; no response if the write never returns
(R44, R152 to R154, R184, R221). -/
def busWrite (c : BusCmd) (k : State → State) (s : State) : State :=
  match s.reply 0 with
  | .ok => k (issue c .ok s)
  | .fail => raise (.transport c.code) (issue c .fail s)
  | .never => issue c .never s

/-- `WriteThenLatch(c)` followed by `respond(OK, [])` (R151, R155 to R157): a failed register write ends the operation without
a latch. -/
def writeThenLatch (c : BusCmd) (s : State) : State := busWrite c (busWrite .latch (respondOk [])) s

/-- `CTL.enabled <- b` (R23). -/
def setEnabled (b : Bool) (s : State) : State := { s with enabled := b }

/-- `LUT_Read(c, i)` (R27). -/
def lutRead (s : State) (c : Channel) (i : Byte) : Byte :=
  if s.ovrValid[c] then entry s.ovr[c] i else entry s.shared i

/-- `p[c] <- GammaCorrect(c, v[c])` for every channel (R133, R156). -/
def gammaCorrect (s : State) (v : PwmVec) : PwmVec := Vector.ofFn fun c : Channel => lutRead s c v[c]

/-- `LUT_WriteOvr(c, curve)` and `GLUT.ovr_valid[c] <- 1` (R127). -/
def lutWriteOvr (c : Channel) (curve : Curve) (s : State) : State :=
  { s with ovr := s.ovr.set c.val curve, ovrValid := s.ovrValid.set c.val true }

/-- `LUT_WriteShared(curve)` (R129, R131). -/
def lutWriteShared (curve : Curve) (s : State) : State := { s with shared := curve }

/-- `GLUT.ovr_valid[c] <- 0` for every channel (R129). -/
def clearOverrides (s : State) : State := { s with ovrValid := Vector.replicate 18 false }

/-- The block reset (R210): every piece of block state at its reset value (R32), the block ready for a request, no bus write
(R211), the device untouched (R212). The override stores are unspecified again (log 5), and the record of what was observed
stays (log 13). -/
def blockReset (s : State) : State :=
  { s with
    enabled := false
    shared := Config.defaultCurve
    ovrValid := Vector.replicate 18 false
    ovr := Config.ovrAtReset s.draws
    waiting := none
    draws := s.draws + 1 }

/-- What stands at the host port (R21, R49, R70): the next frame is taken only by a block that is not hung in a bus write
(R221); the block reset input acts in any case (log 13). -/
def fetch (s : State) : Fetched :=
  match s.inbox, s.waiting with
  | .blockReset :: rest, _ => .blockReset { s with inbox := rest }
  | .frame f :: rest, none => .request f { s with inbox := rest }
  | .frame _ :: _, some _ => .stuck
  | [], none => .idle
  | [], some _ => .stuck

end Sys2Proof.Machine
end

