-- ==== Sys2Proof/Machine/Ctl.lean ====
section
/-! DEFINITION. The operations of the output-enable and latch controller (spec R152 to R157). None depends on `CTL.enabled`
(R158). -/

namespace Sys2Proof.Machine

/-- ENABLE (R152). -/
def execEnable (s : State) : Host.Outcome State Fault Refusal :=
  .next (busWrite (.outputEnable true) (fun t => respondOk [] (setEnabled true t)) s)

/-- DISABLE (R153). -/
def execDisable (s : State) : Host.Outcome State Fault Refusal :=
  .next (busWrite (.outputEnable false) (fun t => respondOk [] (setEnabled false t)) s)

/-- RESET (R154): resets the device's registers; no block state changes. -/
def execReset (s : State) : Host.Outcome State Fault Refusal :=
  .next (busWrite .deviceReset (respondOk []) s)

/-- ENABLE_LEDS (R155). -/
def execEnableLeds (mask : BitVec 32) (s : State) : Host.Outcome State Fault Refusal :=
  .next (writeThenLatch (.enableChannels (encMask mask)) s)

/-- OUTPUT (R156): the look-ups read the LUT as it is at the start of the operation. -/
def execOutput (vals : List Byte) (s : State) : Host.Outcome State Fault Refusal :=
  match pwmVecOf vals with
  | none => .next (raise (.invalidArgument .badCount) s)
  | some v => .next (writeThenLatch (.setPwm (encPwm (gammaCorrect s v))) s)

/-- OUTPUT_RAW (R157). -/
def execOutputRaw (vals : List Byte) (s : State) : Host.Outcome State Fault Refusal :=
  match pwmVecOf vals with
  | none => .next (raise (.invalidArgument .badCount) s)
  | some v => .next (writeThenLatch (.setPwm (encPwm v)) s)

end Sys2Proof.Machine
end

