-- ==== Sys2Proof/Machine/Enc.lean ====
section
/-! DEFINITION. The query operations of the register encoder (spec R104, R105). -/

namespace Sys2Proof.Machine

/-- ENCODE_MASK (R104). -/
def execEncodeMask (mask : BitVec 32) (s : State) : Host.Outcome State Fault Refusal :=
  .next (respondOk (encMask mask).toList s)

/-- ENCODE_PWM (R105). -/
def execEncodePwm (vals : List Byte) (s : State) : Host.Outcome State Fault Refusal :=
  match pwmVecOf vals with
  | none => .next (raise (.invalidArgument .badCount) s)
  | some v => .next (respondOk (encPwm v).toList s)

end Sys2Proof.Machine
end

