-- ==== Sys2Proof/Machine/Glut.lean ====
section
/-! DEFINITION. The operations of the gamma look-up tables (spec R126 to R131). None issues a bus write. -/

namespace Sys2Proof.Machine

/-- GENERATE_CURVE (R126). -/
def execGenerateCurve (exp : BitVec 64) (s : State) : Host.Outcome State Fault Refusal :=
  if validExponent exp then .next (respondOk (gammaGen exp).toList s)
  else .next (raise (.invalidArgument .badExponent) s)

/-- SET_CHANNEL_CURVE (R127): the count is checked before the channel (R185). -/
def execSetChannelCurve (ch : Byte) (ents : List Byte) (s : State) : Host.Outcome State Fault Refusal :=
  match curveOf ents with
  | none => .next (raise (.invalidArgument .badCount) s)
  | some curve =>
    match channelOf ch with
    | none => .next (raise (.invalidArgument .badChannel) s)
    | some c => .next (respondOk [] (lutWriteOvr c curve s))

/-- CORRECT (R128). -/
def execCorrect (ch raw : Byte) (s : State) : Host.Outcome State Fault Refusal :=
  match channelOf ch with
  | none => .next (raise (.invalidArgument .badChannel) s)
  | some c => .next (respondOk [lutRead s c raw] s)

/-- RESET_TO_SHARED (R129). -/
def execResetToShared (exp : BitVec 64) (s : State) : Host.Outcome State Fault Refusal :=
  if validExponent exp then .next (respondOk [] (clearOverrides (lutWriteShared (gammaGen exp) s)))
  else .next (raise (.invalidArgument .badExponent) s)

/-- REGEN_DEFAULT (R131): every override is kept. -/
def execRegenDefault (exp : BitVec 64) (s : State) : Host.Outcome State Fault Refusal :=
  if validExponent exp then .next (respondOk [] (lutWriteShared (gammaGen exp) s))
  else .next (raise (.invalidArgument .badExponent) s)

end Sys2Proof.Machine
end

