-- ==== Sys2Proof/Machine/Dispatch.lean ====
section
/-! DEFINITION. One arm per instruction. -/

namespace Sys2Proof.Machine

def exec (i : Instr) (s : State) : Host.Outcome State Fault Refusal :=
  match i with
  | .enable => Sys2Proof.Machine.execEnable s
  | .disable => Sys2Proof.Machine.execDisable s
  | .reset => Sys2Proof.Machine.execReset s
  | .enableLeds mask => Sys2Proof.Machine.execEnableLeds mask s
  | .output vals => Sys2Proof.Machine.execOutput vals s
  | .outputRaw vals => Sys2Proof.Machine.execOutputRaw vals s
  | .setChannelCurve ch ents => Sys2Proof.Machine.execSetChannelCurve ch ents s
  | .resetToShared exp => Sys2Proof.Machine.execResetToShared exp s
  | .regenDefault exp => Sys2Proof.Machine.execRegenDefault exp s
  | .encodeMask mask => Sys2Proof.Machine.execEncodeMask mask s
  | .encodePwm vals => Sys2Proof.Machine.execEncodePwm vals s
  | .generateCurve exp => Sys2Proof.Machine.execGenerateCurve exp s
  | .correct ch raw => Sys2Proof.Machine.execCorrect ch raw s

end Sys2Proof.Machine
end

