-- ==== Sys2Proof/Machine/Step.lean ====
section
/-! DEFINITION. One step serves one request of the host port (spec R21, R49), or the block reset input (R210). -/

namespace Sys2Proof.Machine

/-- The block serves what stands at its host port: a frame that decodes is executed, one that does not is answered with the
error of R80; with nothing delivered nothing happens (log 4). -/
def step (s : State) : Host.Outcome State Fault Refusal :=
  match fetch s with
  | .idle => .next s
  | .stuck => .fault .busWriteNeverReturned
  | .blockReset t => .next (blockReset t)
  | .request f t =>
    match decode f with
    | .error e => .next (raise e t)
    | .ok i => exec i t

/-- `s` with the frame of a table word delivered as the very next request, to a block that is ready for it: the frame stands
first at the host port, and the block is not hung in a bus write (log 1). -/
def State.withFetchWord (s : State) (nbits w : Nat) : State :=
  { s with inbox := .frame (frameOfWord nbits w) :: s.inbox, waiting := none }

end Sys2Proof.Machine
end

