-- ==== Sys2Proof/Machine/Assembler.lean ====
section
/-! DEFINITION. The assembler syntax of spec R85 and the pseudo-instructions of R86: one line of text to the request frames it
stands for. It is beside the machine: no step uses it. What the spec leaves open in it is in log 18. -/

namespace Sys2Proof.Machine.Asm

/-- The pieces of a text between separators. -/
def splitAt (sep : Char) : List Char → List (List Char)
  | [] => [[]]
  | ch :: rest =>
    match splitAt sep rest with
    | [] => [[ch]]
    | w :: ws => if ch = sep then [] :: w :: ws else (ch :: w) :: ws

/-- The words of a text between blanks. -/
def words (t : List Char) : List (List Char) :=
  (splitAt ' ' (t.map fun ch => if ch = '\t' ∨ ch = '\r' then ' ' else ch)).filter fun w => !w.isEmpty

/-- The value of a digit, hexadecimal letters in either case. -/
def digit (ch : Char) : Option Nat :=
  let n := ch.toNat
  if 48 ≤ n ∧ n ≤ 57 then some (n - 48)
  else if 97 ≤ n ∧ n ≤ 102 then some (n - 87)
  else if 65 ≤ n ∧ n ≤ 70 then some (n - 55)
  else none

/-- Digits in a base, continuing the value `acc`. -/
def digits (base : Nat) : Nat → List Char → Option Nat
  | acc, [] => some acc
  | acc, ch :: rest =>
    match digit ch with
    | none => none
    | some d => if d < base then digits base (base * acc + d) rest else none

/-- An integer in decimal or `0x` hexadecimal (R85). -/
def integer : List Char → Option Nat
  | [] => none
  | ['0', 'x'] => none
  | '0' :: 'x' :: hex => digits 16 0 hex
  | dec => digits 10 0 dec

/-- An integer below a bound. -/
def integerBelow (bound : Nat) (t : List Char) : Option Nat :=
  match integer t with
  | none => none
  | some n => if n < bound then some n else none

/-- One item of a value list: `v`, or `v x K` for K copies of v (R85). -/
def item : List (List Char) → Option (List Byte)
  | [v] => (integerBelow 256 v).map fun n => [BitVec.ofNat 8 n]
  | [v, ['x'], k] =>
    match integerBelow 256 v, integer k with
    | some n, some k => some (List.replicate k (BitVec.ofNat 8 n))
    | _, _ => none
  | _ => none

/-- A value list, its items between commas. -/
def values : List (List (List Char)) → Option (List Byte)
  | [] => some []
  | i :: rest =>
    match item i, values rest with
    | some v, some vs => some (v ++ vs)
    | _, _ => none

/-- `n / d` rounded to the nearest integer, ties to even (R12, R85). -/
def nearest (n d : Nat) : Nat :=
  if d < 2 * (n % d) ∨ (2 * (n % d) = d ∧ n / d % 2 = 1) then n / d + 1 else n / d

/-- The bits of the binary64 value nearest to `num / den`, ties to even; infinity where the number is too large. -/
def binary64Bits (num den : Nat) : Nat :=
  if num = 0 then 0 else
  let a := num.log2
  let b := den.log2
  let e : Int := if den * 2 ^ (a - b) ≤ num * 2 ^ (b - a) then (a : Int) - b else (a : Int) - b - 1
  let k : Int := max (e - 52) (-1074)
  min ((k + 1074).toNat * 2 ^ 52 + nearest (num * 2 ^ (-k).toNat) (den * 2 ^ k.toNat)) (2047 * 2 ^ 52)

/-- The digits of a decimal number with an optional point, as an integer and the number of digits after the point. -/
def decimalDigits (t : List Char) : Option (Nat × Nat) :=
  match splitAt '.' t with
  | [i] => if i.isEmpty then none else (digits 10 0 i).map fun n => (n, 0)
  | [i, f] => if i.isEmpty ∧ f.isEmpty then none else (digits 10 0 (i ++ f)).map fun n => (n, f.length)
  | _ => none

/-- A decimal exponent part as a pair of powers of ten, upwards and downwards. -/
def powerOfTen : List Char → Option (Nat × Nat)
  | '-' :: t => if t.isEmpty then none else (digits 10 0 t).map fun n => (0, n)
  | '+' :: t => if t.isEmpty then none else (digits 10 0 t).map fun n => (n, 0)
  | t => if t.isEmpty then none else (digits 10 0 t).map fun n => (n, 0)

/-- An unsigned decimal number to its binary64 bits (R85). -/
def unsignedDecimal (t : List Char) : Option Nat :=
  match splitAt 'e' t with
  | [m] => (decimalDigits m).map fun d => binary64Bits d.1 (10 ^ d.2)
  | [m, x] =>
    match decimalDigits m, powerOfTen x with
    | some d, some p => some (binary64Bits (d.1 * 10 ^ p.1) (10 ^ (d.2 + p.2)))
    | _, _ => none
  | _ => none

/-- An exponent literal: a decimal number, or `b64:0x` and 16 hexadecimal digits (R85). -/
def exponent : List Char → Option (BitVec 64)
  | 'b' :: '6' :: '4' :: ':' :: '0' :: 'x' :: hex =>
    if hex.length = 16 then (digits 16 0 hex).map (BitVec.ofNat 64) else none
  | '-' :: t => (unsignedDecimal t).map fun n => BitVec.ofNat 64 (2 ^ 63 + n)
  | t => (unsignedDecimal t).map (BitVec.ofNat 64)

/-- No operands. -/
def opN (i : List Instr) : List (List (List Char)) → Option (List Instr)
  | [] => some i
  | _ => none

/-- A mask below 2^32. -/
def opM (mk : BitVec 32 → Instr) : List (List (List Char)) → Option (List Instr)
  | [[t]] => (integerBelow (2 ^ 32) t).map fun n => [mk (BitVec.ofNat 32 n)]
  | _ => none

/-- At least one and at most 255 values; the assembler does not check LEN = 18 (R85). -/
def opV (mk : List Byte → Instr) (args : List (List (List Char))) : Option (List Instr) :=
  match values args with
  | none => none
  | some vs => if vs ≠ [] ∧ vs.length < 256 then some [mk vs] else none

/-- A channel byte and at least one and at most 65535 entries; LEN = 256 is not checked (R85). -/
def opC (mk : Byte → List Byte → Instr) : List (List (List Char)) → Option (List Instr)
  | [ch] :: args =>
    match integerBelow 256 ch, values args with
    | some n, some vs => if vs ≠ [] ∧ vs.length < 65536 then some [mk (BitVec.ofNat 8 n) vs] else none
    | _, _ => none
  | _ => none

/-- An exponent literal. -/
def opE (mk : BitVec 64 → Instr) : List (List (List Char)) → Option (List Instr)
  | [[t]] => (exponent t).map fun x => [mk x]
  | _ => none

/-- A channel byte and a raw byte. -/
def opL (mk : Byte → Byte → Instr) : List (List (List Char)) → Option (List Instr)
  | [[ch], [raw]] =>
    match integerBelow 256 ch, integerBelow 256 raw with
    | some a, some b => some [mk (BitVec.ofNat 8 a) (BitVec.ofNat 8 b)]
    | _, _ => none
  | _ => none

/-- The operations of a mnemonic (R78) or pseudo-instruction (R86) with its operands. -/
def operation (mnemonic : String) : List (List (List Char)) → Option (List Instr) :=
  match mnemonic with
  | "ENABLE" => opN [.enable]
  | "DISABLE" => opN [.disable]
  | "RESET" => opN [.reset]
  | "ENABLE_LEDS" => opM .enableLeds
  | "OUTPUT" => opV .output
  | "OUTPUT_RAW" => opV .outputRaw
  | "SET_CHANNEL_CURVE" => opC .setChannelCurve
  | "RESET_TO_SHARED" => opE .resetToShared
  | "REGEN_DEFAULT" => opE .regenDefault
  | "ENCODE_MASK" => opM .encodeMask
  | "ENCODE_PWM" => opV .encodePwm
  | "GENERATE_CURVE" => opE .generateCurve
  | "CORRECT" => opL .correct
  | "ALL_ON" => opN Pseudo.allOn.expand
  | "ALL_OFF" => opN Pseudo.allOff.expand
  | "SHUTDOWN" => opN Pseudo.shutdown.expand
  | "RECOVER" => opN Pseudo.recover.expand
  | "BLANK" => opN Pseudo.blank.expand
  | _ => fun _ => none

/-- The operations of one line; `;` starts a comment, and a line of nothing else is no operation (R85). -/
def instructions (line : String) : Option (List Instr) :=
  let text := line.toList.takeWhile fun ch => ch ≠ ';'
  match words text with
  | [] => some []
  | mn :: _ =>
    let rest := (text.dropWhile fun ch => ch = ' ' ∨ ch = '\t' ∨ ch = '\r').drop mn.length
    operation (String.ofList mn) (if (words rest).isEmpty then [] else (splitAt ',' rest).map words)

/-- The request frames of one line (R85, R86). -/
def assemble (line : String) : Option (List Frame) := (instructions line).map fun is => is.map encode

end Sys2Proof.Machine.Asm
end

