-- ==== Sys2Proof/Safety.lean ====
section
/-! DEFINITION. The terms claims are stated in: when the block is ready for a request, what a bus write and a response may
look like (spec R42, R81), the write-then-latch discipline of a bus log (R48, R151), and when two states differ only in
override stores that no rule reads (R27). A run is safe while the block is not hung in a bus write (R221). -/

namespace Sys2Proof.Machine

/-- The next thing the block does is serve the frame `f`, with `rest` delivered after it. -/
def State.Ready (s : State) (f : Frame) (rest : List Stimulus) : Prop :=
  s.waiting = none ∧ s.inbox = .frame f :: rest

/-- A value-changing register write, the kind a latch must follow (R151). -/
def BusEvent.isValueWrite (e : BusEvent) : Bool := e.code == 0x01 || e.code == 0x13

/-- An update / latch write (R42). -/
def BusEvent.isLatch (e : BusEvent) : Bool := e.code == 0x16

/-- The write-then-latch discipline (R48, R151), oldest write first; `owed` says that the write before was a value-changing
write that returned ok: then the next write is a latch, and otherwise no latch stands there. -/
def latchFrom : Bool → List BusEvent → Bool
  | owed, [] => !owed
  | true, e :: rest => e.isLatch && latchFrom false rest
  | false, e :: rest => !e.isLatch && latchFrom (e.isValueWrite && e.result == .ok) rest

/-- A whole log keeps the discipline: every value-changing write that returned ok is followed at once by a latch write, and a
latch write stands nowhere else. -/
def latchDiscipline (log : List BusEvent) : Bool := latchFrom false log

/-- The bus write is one of those R42 lists, at the device's address, with the payload length and the fixed values of R42 and
with bits 7:6 of every group byte zero (R83, R84). -/
def BusEvent.inTable (e : BusEvent) : Bool :=
  e.addr == 0x54#7 &&
  (e.code == 0x00 && (e.payload == [0x00] || e.payload == [0x01]) ||
   e.code == 0x01 && e.payload.length == 18 ||
   e.code == 0x13 && e.payload.length == 3 && e.payload.all (fun b => decide (b.toNat < 64)) ||
   e.code == 0x16 && e.payload == [0xFF] ||
   e.code == 0x17 && e.payload == [0xFF])

/-- The bus log of a state holds only writes of the table (R42). -/
def State.busInTable (s : State) : Bool := s.busLog.all BusEvent.inTable

/-- The bus log of a state keeps the write-then-latch discipline (R151). -/
def State.busLatched (s : State) : Bool := latchDiscipline s.busLog

/-- A response has the form of R81: OK and 0, 1, 3, 18 or 256 result bytes, or an error status and one info byte; a reason
code is one of the four of R183, and a transport error names one of the five command codes (R184). -/
def responseShape : Frame → Bool
  | [] => false
  | st :: body =>
    if st = 0x00 then [0, 1, 3, 18, 256].contains body.length
    else if st = 0x01 then [[0x01], [0x02], [0x03], [0x04]].contains body
    else if st = 0x02 then [[0x00], [0x01], [0x13], [0x16], [0x17]].contains body
    else if st = 0x03 then
      match body with
      | [op] => decide (op = 0x00 ∨ 0x0E ≤ op.toNat)
      | _ => false
    else false

/-- Every response so far has the form of R81. -/
def State.responsesShaped (s : State) : Bool := s.responses.all responseShape

/-- In state `s` the instruction is one of the three write-then-latch operations (R151, R155 to R157) with operands it accepts,
and `c` is its register write: the group bytes, the gamma-corrected values or the values as given. -/
def WritesThenLatches (s : State) (i : Instr) (c : BusCmd) : Prop :=
  (∃ mask, i = .enableLeds mask ∧ c = .enableChannels (encMask mask)) ∨
  (∃ vals v, pwmVecOf vals = some v ∧
    (i = .output vals ∧ c = .setPwm (gammaCorrect s v) ∨ i = .outputRaw vals ∧ c = .setPwm v))

/-- The operations of CTL (R152 to R157), the only ones that issue bus writes (R19). -/
def isCtl : Instr → Bool
  | .enable => true
  | .disable => true
  | .reset => true
  | .enableLeds _ => true
  | .output _ => true
  | .outputRaw _ => true
  | .setChannelCurve _ _ => false
  | .resetToShared _ => false
  | .regenDefault _ => false
  | .encodeMask _ => false
  | .encodePwm _ => false
  | .generateCurve _ => false
  | .correct _ _ => false

/-- The operations that write GLUT state (R31). -/
def writesGlut : Instr → Bool
  | .setChannelCurve _ _ => true
  | .resetToShared _ => true
  | .regenDefault _ => true
  | .enable => false
  | .disable => false
  | .reset => false
  | .enableLeds _ => false
  | .output _ => false
  | .outputRaw _ => false
  | .encodeMask _ => false
  | .encodePwm _ => false
  | .generateCurve _ => false
  | .correct _ _ => false

/-- The bus writes of a successful operation (R159). -/
def busWritesOnSuccess : Instr → Nat
  | .enable => 1
  | .disable => 1
  | .reset => 1
  | .enableLeds _ => 2
  | .output _ => 2
  | .outputRaw _ => 2
  | .setChannelCurve _ _ => 0
  | .resetToShared _ => 0
  | .regenDefault _ => 0
  | .encodeMask _ => 0
  | .encodePwm _ => 0
  | .generateCurve _ => 0
  | .correct _ _ => 0

/-- The two states are the same but for override stores of channels that are not overridden, which no rule reads (R27). -/
def SameButUnread (s t : State) : Prop :=
  t = { s with ovr := t.ovr } ∧ ∀ c : Channel, s.ovrValid[c] = true → t.ovr[c] = s.ovr[c]

/-- The block state of R22 is the same. -/
def SameBlock (s t : State) : Prop :=
  t.enabled = s.enabled ∧ t.shared = s.shared ∧ t.ovrValid = s.ovrValid ∧ t.ovr = s.ovr

/-- Every register of `d` has its value in `a` or its value in `b` (R58: "either its old or its new value, independently");
where `a` and `b` agree, `d` agrees with both. -/
def BetweenDevices (a b d : Device) : Prop :=
  (d.oe = a.oe ∨ d.oe = b.oe) ∧
  (∀ k : Fin 18, d.pwmStage[k] = a.pwmStage[k] ∨ d.pwmStage[k] = b.pwmStage[k]) ∧
  (∀ k : Fin 18, d.pwmLive[k] = a.pwmLive[k] ∨ d.pwmLive[k] = b.pwmLive[k]) ∧
  (∀ g : Fin 3, d.enStage[g] = a.enStage[g] ∨ d.enStage[g] = b.enStage[g]) ∧
  (∀ g : Fin 3, d.enLive[g] = a.enLive[g] ∨ d.enLive[g] = b.enLive[g])

/-- A run from `s` is over (R222): nothing is left to serve and the block is not hung. -/
def State.runEnded (s : State) : Bool := s.inbox.isEmpty && s.waiting.isNone

end Sys2Proof.Machine
end

