-- ==== Sys2Proof/Certificates/Slice0/Obligations.lean ====
section
/-! DEFINITION. The statements for the provers. Each docstring names the rule of the spec it formalises. A statement about a
free value (the draws of R58, DEV_POR, the unread override stores) holds for every value of it. The fields `draws` (the
counter of the free draws, log 11) and `transport` (the answers of the transport, log 2), which the result statements carry
along so that they say all of the next state, are the model's own. -/

open Sys2Proof Sys2Proof.Machine

/-! Frames. -/

/-- R71 to R78: decoding the frame of a well-formed instruction gives it back, every operand at every value. -/
def Obligations.DecodeEncodeRoundTrip : Prop :=
  ∀ i : Instr, i.wellFormed = true → decode (encode i) = .ok i

/-- R70 to R78: a frame that decodes is the frame of the instruction it decodes to, and that is well-formed: no two frames
decode to one instruction. -/
def Obligations.EncodeDecodeRoundTrip : Prop :=
  ∀ (f : Frame) (i : Instr), decode f = .ok i → encode i = f ∧ i.wellFormed = true

/-- R71 to R78 on frames of 95_test_vectors.md and of the rules' examples, one per format. -/
def Obligations.SampleFramesDecode : Prop :=
  decode [0x01] = .ok .enable ∧ decode [0x03] = .ok .reset ∧
  decode [0x04, 0x41, 0x00, 0x02, 0x00] = .ok (.enableLeds 0x20041) ∧
  decode [0x06, 0x02, 0x10, 0xFF] = .ok (.outputRaw [0x10, 0xFF]) ∧
  decode [0x07, 0x05, 0x02, 0x00, 0xFE, 0x01] = .ok (.setChannelCurve 0x05 [0xFE, 0x01]) ∧
  decode [0x08, 0x66, 0x66, 0x66, 0x66, 0x66, 0x66, 0xF6, 0x3F] = .ok (.resetToShared 0x3FF6666666666666) ∧
  decode [0x0D, 0x11, 0x64] = .ok (.correct 17 100)

/-- R72 to R77: the operands are assembled from whole bytes, lowest byte first. -/
def Obligations.OperandsAreAssembledLittleEndian : Prop :=
  (∀ m0 m1 m2 m3 : Byte, ∃ mask : BitVec 32,
    mask.toNat = m0.toNat + 2 ^ 8 * m1.toNat + 2 ^ 16 * m2.toNat + 2 ^ 24 * m3.toNat ∧
    decode [0x04, m0, m1, m2, m3] = .ok (.enableLeds mask) ∧
    decode [0x0A, m0, m1, m2, m3] = .ok (.encodeMask mask)) ∧
  (∀ x0 x1 x2 x3 x4 x5 x6 x7 : Byte, ∃ x : BitVec 64,
    x.toNat = x0.toNat + 2 ^ 8 * x1.toNat + 2 ^ 16 * x2.toNat + 2 ^ 24 * x3.toNat + 2 ^ 32 * x4.toNat +
      2 ^ 40 * x5.toNat + 2 ^ 48 * x6.toNat + 2 ^ 56 * x7.toNat ∧
    decode [0x08, x0, x1, x2, x3, x4, x5, x6, x7] = .ok (.resetToShared x) ∧
    decode [0x09, x0, x1, x2, x3, x4, x5, x6, x7] = .ok (.regenDefault x) ∧
    decode [0x0C, x0, x1, x2, x3, x4, x5, x6, x7] = .ok (.generateCurve x)) ∧
  (∀ (len : Byte) (vals : List Byte), vals.length = len.toNat →
    decode (0x05 :: len :: vals) = .ok (.output vals) ∧ decode (0x06 :: len :: vals) = .ok (.outputRaw vals) ∧
    decode (0x0B :: len :: vals) = .ok (.encodePwm vals)) ∧
  (∀ (ch l0 l1 : Byte) (ents : List Byte), ents.length = l0.toNat + 2 ^ 8 * l1.toNat →
    decode (0x07 :: ch :: l0 :: l1 :: ents) = .ok (.setChannelCurve ch ents)) ∧
  (∀ ch raw : Byte, decode [0x0D, ch, raw] = .ok (.correct ch raw))

/-- R80: which frames decode, by opcode and length, and which error refuses the others. -/
def Obligations.DecodeFollowsTheFormats : Prop :=
  decode [] = .error (.invalidArgument .badLength) ∧
  ∀ (op : Byte) (body : Frame),
    ((op = 0x00 ∨ 0x0E ≤ op.toNat) → decode (op :: body) = .error (.illegalOpcode op)) ∧
    (¬(op = 0x00 ∨ 0x0E ≤ op.toNat) →
      (∃ i, decode (op :: body) = .ok i) ∧
        (op ∈ [0x01, 0x02, 0x03] ∧ body.length = 0 ∨
         op ∈ [0x04, 0x0A] ∧ body.length = 4 ∨
         op ∈ [0x05, 0x06, 0x0B] ∧ (∃ len vals, body = len :: vals ∧ vals.length = len.toNat) ∨
         op = 0x07 ∧ (∃ ch l0 l1 ents, body = ch :: l0 :: l1 :: ents ∧ ents.length = l0.toNat + 256 * l1.toNat) ∨
         op ∈ [0x08, 0x09, 0x0C] ∧ body.length = 8 ∨
         op = 0x0D ∧ body.length = 2) ∨
      decode (op :: body) = .error (.invalidArgument .badLength) ∧
        ¬(op ∈ [0x01, 0x02, 0x03] ∧ body.length = 0 ∨
          op ∈ [0x04, 0x0A] ∧ body.length = 4 ∨
          op ∈ [0x05, 0x06, 0x0B] ∧ (∃ len vals, body = len :: vals ∧ vals.length = len.toNat) ∨
          op = 0x07 ∧ (∃ ch l0 l1 ents, body = ch :: l0 :: l1 :: ents ∧ ents.length = l0.toNat + 256 * l1.toNat) ∨
          op ∈ [0x08, 0x09, 0x0C] ∧ body.length = 8 ∨
          op = 0x0D ∧ body.length = 2))

/-- R42, R82 to R84: the code and payload on the bus say which command it is, with all its values. -/
def Obligations.BusCommandsReadBackFromTheWire : Prop :=
  ∀ c : BusCmd, BusCmd.ofWire c.code c.payload = some c

/-! The step. -/

/-- R21, R49: a ready block takes exactly the next frame and executes the instruction it decodes to; a table word delivered by
`withFetchWord` is executed by the very next step (the delivery is the model's convention, log 1). -/
def Obligations.StepRunsTheDecodedRequest : Prop :=
  (∀ (s : State) (f : Frame) (rest : List Stimulus) (i : Instr), s.Ready f rest → decode f = .ok i →
    step s = exec i { s with inbox := rest }) ∧
  (∀ (s : State) (nbits w : Nat) (i : Instr), decodeTableWord nbits w = some i →
    step (s.withFetchWord nbits w) = exec i { s with waiting := none })

/-- R182: a frame whose opcode is 0x00 or in 0x0E..0xFF is answered with IllegalOpcode and its opcode, whatever its length, and
nothing else changes. -/
def Obligations.IllegalOpcodeIsAnsweredAndChangesNothing : Prop :=
  ∀ (s : State) (op : Byte) (body : Frame) (rest : List Stimulus),
    s.Ready (op :: body) rest → (op = 0x00 ∨ 0x0E ≤ op.toNat) →
    step s = .next { s with inbox := rest, responses := s.responses ++ [[0x03, op]] }

/-- R80, R183, R186: a frame of a legal opcode that fits no format, and an empty frame, are answered with BAD_LENGTH, and
nothing else changes. -/
def Obligations.MalformedFramesAreAnsweredAndChangeNothing : Prop :=
  ∀ (s : State) (f : Frame) (rest : List Stimulus), s.Ready f rest →
    (∀ i, decode f ≠ .ok i) → (∀ op body, f = op :: body → op ≠ 0x00 ∧ op.toNat < 0x0E) →
    step s = .next { s with inbox := rest, responses := s.responses ++ [[0x01, 0x01]] }

/-- R180, R186: an error is a response and not a stop, so every instruction answers a next state where its operands are bad or
a bus write fails. The rest is the model's choice, not the spec's: that `exec` answers a next state, the waiting block, even
when a bus write never returns, and that only a later step stops (log 3); that the step of an idle block is a next state
(log 4); that the block reset input is a step (log 13). -/
def Obligations.OnlyAHangStops : Prop :=
  (∀ (i : Instr) (s : State), ∃ t, exec i s = .next t) ∧
  (∀ s : State, s.waiting = none → ∃ t, step s = .next t) ∧
  (∀ (s : State) (r : Refusal), step s ≠ .refused r)

/-- R21, R81, R221: serving a request drops exactly its frame and gives exactly one response, except when a bus write never
returns: then the block is left waiting and gives none. -/
def Obligations.OneResponsePerRequest : Prop :=
  ∀ (s t : State) (f : Frame) (rest : List Stimulus), s.Ready f rest → step s = .next t →
    t.inbox = rest ∧
    (t.waiting = none ∧ (∃ r, t.responses = s.responses ++ [r]) ∨
     t.waiting ≠ none ∧ t.responses = s.responses)

/-- R221, U12: a block hung in a bus write takes no further step, whatever frame is delivered; only the block reset input
(R210) acts. The fault is the model's form of "stuck" (log 3). -/
def Obligations.HungBlockTakesNoFurtherStep : Prop :=
  ∀ s : State, s.waiting ≠ none → (∀ rest, s.inbox ≠ .blockReset :: rest) → step s = .fault .busWriteNeverReturned

/-- R221: an operation whose bus write never returns gives no response, changes no block state, and leaves the block waiting
in exactly that write, which is on the bus. First clause: the first write, for the six operations that write. Second clause:
the latch after a register write that returned ok, which stays done, for the three write-then-latch operations. That the
device is drawn as after a failed write is the model's choice (log 3). -/
def Obligations.UnreturnedWriteGivesNoResponse : Prop :=
  (∀ (s : State) (i : Instr) (c : BusCmd), s.reply 0 = .never →
    (i = .enable ∧ c = .outputEnable true ∨ i = .disable ∧ c = .outputEnable false ∨ i = .reset ∧ c = .deviceReset ∨
      WritesThenLatches s i c) →
    exec i s = .next { s with
      dev := afterFailed s.draws c s.dev, busLog := s.busLog ++ [⟨0x54, c.code, c.payload, .never⟩],
      transport := s.transport.tail, waiting := some c, draws := s.draws + 1 }) ∧
  (∀ (s : State) (i : Instr) (c : BusCmd), WritesThenLatches s i c → s.reply 0 = .ok → s.reply 1 = .never →
    ∃ d : Device, d = afterFailed s.draws .latch (accept c s.dev) ∧
    d.pwmStage = (accept c s.dev).pwmStage ∧ d.enStage = (accept c s.dev).enStage ∧ d.oe = s.dev.oe ∧
    exec i s = .next { s with
      dev := d, busLog := s.busLog ++ [⟨0x54, c.code, c.payload, .ok⟩, ⟨0x54, 0x16, [0xFF], .never⟩],
      transport := s.transport.tail.tail, waiting := some .latch, draws := s.draws + 1 })

/-! The register encoder. -/

/-- R101: bit b of byte g is mask bit 6g + b, bits 7:6 of every byte are 0, and mask bits 31:18 reach no output. -/
def Obligations.MaskBitsGoToTheirGroup : Prop :=
  ∀ mask : BitVec 32,
    ((encMask mask)[0]).toNat = mask.toNat % 2 ^ 6 ∧
    ((encMask mask)[1]).toNat = mask.toNat / 2 ^ 6 % 2 ^ 6 ∧
    ((encMask mask)[2]).toNat = mask.toNat / 2 ^ 12 % 2 ^ 6 ∧
    (∀ (g : Fin 3) (b : Nat), b < 6 → ((encMask mask)[g]).getLsbD b = mask.getLsbD (6 * g.val + b)) ∧
    (∀ (g : Fin 3) (b : Nat), 6 ≤ b → ((encMask mask)[g]).getLsbD b = false) ∧
    (∀ other : BitVec 32, (∀ k, k < 18 → other.getLsbD k = mask.getLsbD k) → encMask other = encMask mask)

/-- R103: each group byte is at most 63, the three give back the low 18 bits, so the encoder is injective on [0, 0x3FFFF] and
depends on the low 18 bits alone. -/
def Obligations.MaskEncoderRoundTrip : Prop :=
  (∀ mask : BitVec 32, (∀ g : Fin 3, ((encMask mask)[g]).toNat ≤ 63) ∧
    ((encMask mask)[0]).toNat ||| ((encMask mask)[1]).toNat <<< 6 ||| ((encMask mask)[2]).toNat <<< 12 =
      mask.toNat &&& 0x3FFFF) ∧
  (∀ a b : BitVec 32, a.toNat ≤ 0x3FFFF → b.toNat ≤ 0x3FFFF → encMask a = encMask b → a = b) ∧
  (∀ mask : BitVec 32, encMask mask = encMask (mask &&& 0x3FFFF#32))

/-- R104: ENCODE_MASK refuses no mask, answers the three group bytes and changes nothing else; with its frame, its length
error, its corner cases and its example. -/
def Obligations.EncodeMaskAnswersTheGroupBytes : Prop :=
  (∀ (mask : BitVec 32) (s : State), ∃ b0 b1 b2 : Byte,
    b0.toNat = mask.toNat % 2 ^ 6 ∧ b1.toNat = mask.toNat / 2 ^ 6 % 2 ^ 6 ∧ b2.toNat = mask.toNat / 2 ^ 12 % 2 ^ 6 ∧
    exec (.encodeMask mask) s = .next { s with responses := s.responses ++ [[0x00, b0, b1, b2]] }) ∧
  (∀ m0 m1 m2 m3 : Byte, decode [0x0A, m0, m1, m2, m3] = .ok (.encodeMask (m3 ++ m2 ++ m1 ++ m0))) ∧
  (∀ body : Frame, body.length ≠ 4 → decode (0x0A :: body) = .error (.invalidArgument .badLength)) ∧
  encMask 0x0 = #v[0x00, 0x00, 0x00] ∧ encMask 0x3FFFF = #v[0x3F, 0x3F, 0x3F] ∧
  encMask 0xFFFFFFFF = #v[0x3F, 0x3F, 0x3F] ∧ encMask 0x40000 = #v[0x00, 0x00, 0x00] ∧
  encMask 0x20041 = #v[0x01, 0x01, 0x20]

/-- R105, R102: ENCODE_PWM answers the eighteen bytes unchanged, refuses every other count, and changes nothing else. -/
def Obligations.EncodePwmAnswersTheVectorUnchanged : Prop :=
  ∀ (vals : List Byte) (s : State),
    (vals.length = 18 → exec (.encodePwm vals) s = .next { s with responses := s.responses ++ [0x00 :: vals] }) ∧
    (vals.length ≠ 18 → exec (.encodePwm vals) s = .next { s with responses := s.responses ++ [[0x01, 0x02]] })

/-! The gamma look-up tables. -/

/-- R124: an exponent is valid exactly when its bits are those of a finite number above zero, subnormals included; every other
one is answered with BAD_EXPONENT by each operation that takes one, and nothing else changes. -/
def Obligations.OnlyFinitePositiveExponentsAreValid : Prop :=
  (∀ x : BitVec 64, validExponent x = true ↔ 0 < x.toNat ∧ x.toNat < 0x7FF0000000000000) ∧
  (∀ (x : BitVec 64) (s : State), validExponent x = false →
    exec (.resetToShared x) s = .next { s with responses := s.responses ++ [[0x01, 0x04]] } ∧
    exec (.regenDefault x) s = .next { s with responses := s.responses ++ [[0x01, 0x04]] } ∧
    exec (.generateCurve x) s = .next { s with responses := s.responses ++ [[0x01, 0x04]] })

/-- R121, R12: every entry of the generated curve is 255 * (i/255)^e, in exact real arithmetic on the exact value e of the
binary64 operand, rounded to the nearest integer. The distance is below one half, not only at most: no entry of any curve
is a tie, so the rule "ties to even" of R12 never has to choose. -/
def Obligations.GeneratedCurveIsTheRoundedPower : Prop :=
  ∀ (x : BitVec 64) (i : Fin 256), validExponent x = true →
    ∀ (fraction biased : Nat) (e : ℝ), fraction = x.toNat % 2 ^ 52 → biased = x.toNat / 2 ^ 52 % 2 ^ 11 →
      e = (if biased = 0 then (fraction : ℝ) * 2 ^ (-1074 : ℤ)
           else (2 ^ 52 + (fraction : ℝ)) * 2 ^ ((biased : ℤ) - 1075)) →
      |255 * ((i.val : ℝ) / 255) ^ e - ((gammaGen x)[i]).toNat| < 1 / 2

/-- R123: the named properties of the generator: entries in range, fixed ends, non-decreasing, the identity at exponent 1.0.
That it depends on the exponent alone is the type of `gammaGen`. -/
def Obligations.GeneratedCurveHasItsNamedProperties : Prop :=
  (∀ x : BitVec 64, validExponent x = true →
    (∀ i : Fin 256, ((gammaGen x)[i]).toNat ≤ 255) ∧ (gammaGen x)[0] = 0x00 ∧ (gammaGen x)[255] = 0xFF ∧
    (∀ i j : Fin 256, i ≤ j → ((gammaGen x)[i]).toNat ≤ ((gammaGen x)[j]).toNat)) ∧
  (∀ i : Fin 256, ((gammaGen 0x3FF0000000000000#64)[i]).toNat = i.val)

/-- R122: the generator at 1.4 gives the table of the rule, which is what `GLUT.shared` holds after reset. -/
def Obligations.DefaultCurveIsGeneratedAtTheDefaultExponent : Prop :=
  (gammaGen 0x3FF6666666666666#64).toList = Config.defaultCurveTable ∧
  State.reset.shared = gammaGen 0x3FF6666666666666#64

/-- R126: GENERATE_CURVE answers the 256 entries and changes nothing else. -/
def Obligations.GenerateCurveAnswersTheCurve : Prop :=
  ∀ (x : BitVec 64) (s : State), validExponent x = true →
    exec (.generateCurve x) s = .next { s with responses := s.responses ++ [0x00 :: (gammaGen x).toList] }

/-- R127: SET_CHANNEL_CURVE overrides one channel with the 256 entries given, whatever they are, leaves the other 17 and the
shared curve untouched, and changes nothing else but its response; a wrong count and then a bad channel are refused. -/
def Obligations.SetChannelCurveOverridesOneChannel : Prop :=
  ∀ (ch : Byte) (ents : List Byte) (s : State),
    (∀ (hc : ch.toNat < 18) (hl : ents.length = 256), ∃ (ovr : Vector Curve 18) (valid : Vector Bool 18),
      exec (.setChannelCurve ch ents) s =
        .next { s with ovr := ovr, ovrValid := valid, responses := s.responses ++ [[0x00]] } ∧
      ovr[ch.toNat].toList = ents ∧ valid[ch.toNat] = true ∧
      (∀ d : Fin 18, d.val ≠ ch.toNat → ovr[d] = s.ovr[d] ∧ valid[d] = s.ovrValid[d]) ∧
      (∀ t, exec (.setChannelCurve ch ents) s = .next t → ∀ (d : Fin 18) (i : Fin 256),
        lutRead t d (BitVec.ofNat 8 i.val) =
          if d.val = ch.toNat then ents[i.val]'(by omega) else lutRead s d (BitVec.ofNat 8 i.val))) ∧
    (ents.length ≠ 256 →
      exec (.setChannelCurve ch ents) s = .next { s with responses := s.responses ++ [[0x01, 0x02]] }) ∧
    (18 ≤ ch.toNat → ents.length = 256 →
      exec (.setChannelCurve ch ents) s = .next { s with responses := s.responses ++ [[0x01, 0x03]] })

/-- R128, R27: CORRECT answers the override entry of an overridden channel and the shared entry of any other, refuses a
channel above 17, and changes nothing else. -/
def Obligations.CorrectReadsTheEffectiveCurve : Prop :=
  ∀ (ch raw : Byte) (s : State),
    (∀ hc : ch.toNat < 18, s.ovrValid[ch.toNat] = true →
      exec (.correct ch raw) s =
        .next { s with responses := s.responses ++ [[0x00, s.ovr[ch.toNat][raw.toNat]'raw.isLt]] }) ∧
    (∀ hc : ch.toNat < 18, s.ovrValid[ch.toNat] = false →
      exec (.correct ch raw) s =
        .next { s with responses := s.responses ++ [[0x00, s.shared[raw.toNat]'raw.isLt]] }) ∧
    (18 ≤ ch.toNat → exec (.correct ch raw) s = .next { s with responses := s.responses ++ [[0x01, 0x03]] })

/-- R129: RESET_TO_SHARED writes the shared curve and clears all eighteen override marks and nothing else; afterwards every
channel reads the generated curve. -/
def Obligations.ResetToSharedDiscardsEveryOverride : Prop :=
  ∀ (x : BitVec 64) (s : State), validExponent x = true → ∃ t,
    exec (.resetToShared x) s = .next t ∧
    t = { s with shared := gammaGen x, ovrValid := t.ovrValid, responses := s.responses ++ [[0x00]] } ∧
    (∀ c : Fin 18, t.ovrValid[c] = false) ∧
    (∀ (c : Fin 18) (i : Byte), lutRead t c i = (gammaGen x)[i.toNat]'i.isLt)

/-- R131, R130: REGEN_DEFAULT writes the shared curve and nothing else; an overridden channel reads as before, every other
channel reads the generated curve. -/
def Obligations.RegenDefaultKeepsEveryOverride : Prop :=
  ∀ (x : BitVec 64) (s : State), validExponent x = true → ∃ t,
    exec (.regenDefault x) s = .next t ∧
    t = { s with shared := gammaGen x, responses := s.responses ++ [[0x00]] } ∧
    (∀ (c : Fin 18) (i : Byte), s.ovrValid[c] = true → lutRead t c i = lutRead s c i) ∧
    (∀ (c : Fin 18) (i : Byte), s.ovrValid[c] = false → lutRead t c i = (gammaGen x)[i.toNat]'i.isLt)

/-- R26, R130: over every instruction, a channel becomes overridden only by SET_CHANNEL_CURVE on it and stops being so only by
RESET_TO_SHARED; no channel is overridden after reset. -/
def Obligations.OverrideMarksChangeOnlyByTheirOperations : Prop :=
  (∀ (i : Instr) (s t : State) (c : Fin 18), exec i s = .next t → t.ovrValid[c] ≠ s.ovrValid[c] →
    (t.ovrValid[c] = true ∧ ∃ ch ents, i = .setChannelCurve ch ents ∧ ch.toNat = c.val ∧ ents.length = 256) ∨
    (t.ovrValid[c] = false ∧ ∃ x, i = .resetToShared x ∧ validExponent x = true)) ∧
  (∀ c : Fin 18, State.reset.ovrValid[c] = false)

/-- R27, U6: the override store of a channel that is not overridden is never read: two states that differ only there step
alike and go on differing only there. -/
def Obligations.UnreadOverrideStoresAreNeverSeen : Prop :=
  ∀ s t : State, SameButUnread s t →
    (∀ s', step s = .next s' → ∃ t', step t = .next t' ∧ SameButUnread s' t') ∧
    (∀ r, step s = .fault r → step t = .fault r)

/-! The output-enable and latch controller. -/

/-- R152, R51, R58, R184: ENABLE issues one write and no latch; on ok it sets the flag and the device's output-enable, on
failure the flag is unchanged and the error names the write; with its frame and its length error. -/
def Obligations.EnableWritesThenSetsTheFlag : Prop :=
  ∀ s : State,
    (s.reply 0 = .ok → exec .enable s = .next { s with
      enabled := true, dev := { s.dev with oe := true }, busLog := s.busLog ++ [⟨0x54, 0x00, [0x01], .ok⟩],
      transport := s.transport.tail, responses := s.responses ++ [[0x00]] }) ∧
    (s.reply 0 = .fail → ∃ oe : Bool, exec .enable s = .next { s with
      dev := { s.dev with oe := oe }, busLog := s.busLog ++ [⟨0x54, 0x00, [0x01], .fail⟩],
      transport := s.transport.tail, draws := s.draws + 1, responses := s.responses ++ [[0x02, 0x00]] }) ∧
    decode [0x01] = .ok .enable ∧
    (∀ b body, decode (0x01 :: b :: body) = .error (.invalidArgument .badLength))

/-- R153, R51, R58, R184: DISABLE, in the same way. -/
def Obligations.DisableWritesThenClearsTheFlag : Prop :=
  ∀ s : State,
    (s.reply 0 = .ok → exec .disable s = .next { s with
      enabled := false, dev := { s.dev with oe := false }, busLog := s.busLog ++ [⟨0x54, 0x00, [0x00], .ok⟩],
      transport := s.transport.tail, responses := s.responses ++ [[0x00]] }) ∧
    (s.reply 0 = .fail → ∃ oe : Bool, exec .disable s = .next { s with
      dev := { s.dev with oe := oe }, busLog := s.busLog ++ [⟨0x54, 0x00, [0x00], .fail⟩],
      transport := s.transport.tail, draws := s.draws + 1, responses := s.responses ++ [[0x02, 0x00]] }) ∧
    decode [0x02] = .ok .disable ∧
    (∀ b body, decode (0x02 :: b :: body) = .error (.invalidArgument .badLength))

/-- R154, R55: RESET issues one write and no latch and changes no block state; on ok the stage registers take their power-on
values, the output-enable is kept, and each live register keeps its value or takes its power-on value as the open parameter
says; after a failure each register has its old value or that one; with its frame and its length error. -/
def Obligations.ResetWritesTheDeviceAndNoBlockState : Prop :=
  ∀ s : State, ∃ d : Device,
    d.oe = s.dev.oe ∧ d.pwmStage = Config.devPor.pwmStage ∧ d.enStage = Config.devPor.enStage ∧
    (∀ k : Fin 18, d.pwmLive[k] =
      if Config.resetAffectsLatched (.pwmLive k) then Config.devPor.pwmLive[k] else s.dev.pwmLive[k]) ∧
    (∀ g : Fin 3, d.enLive[g] =
      if Config.resetAffectsLatched (.enLive g) then Config.devPor.enLive[g] else s.dev.enLive[g]) ∧
    (s.reply 0 = .ok → exec .reset s = .next { s with
      dev := d, busLog := s.busLog ++ [⟨0x54, 0x17, [0xFF], .ok⟩],
      transport := s.transport.tail, responses := s.responses ++ [[0x00]] }) ∧
    (s.reply 0 = .fail → ∃ d', BetweenDevices s.dev d d' ∧ exec .reset s = .next { s with
      dev := d', busLog := s.busLog ++ [⟨0x54, 0x17, [0xFF], .fail⟩],
      transport := s.transport.tail, draws := s.draws + 1, responses := s.responses ++ [[0x02, 0x17]] }) ∧
    decode [0x03] = .ok .reset ∧
    (∀ b body, decode (0x03 :: b :: body) = .error (.invalidArgument .badLength))

/-- R155: ENABLE_LEDS sends the group bytes and then the latch; afterwards channel c is enabled on the device exactly when mask
bit c is set, the PWM stage is committed too (R54), and no block state changes. -/
def Obligations.EnableLedsSendsTheMaskAndLatches : Prop :=
  ∀ (mask : BitVec 32) (s : State), s.reply 0 = .ok → s.reply 1 = .ok → ∃ en : Vector (BitVec 6) 3,
    (∀ (g : Fin 3) (b : Nat), b < 6 → en[g].getLsbD b = mask.getLsbD (6 * g.val + b)) ∧
    exec (.enableLeds mask) s = .next { s with
      dev := { s.dev with enStage := en, enLive := en, pwmLive := s.dev.pwmStage },
      busLog := s.busLog ++ [⟨0x54, 0x13, (encMask mask).toList, .ok⟩, ⟨0x54, 0x16, [0xFF], .ok⟩],
      transport := s.transport.tail.tail, responses := s.responses ++ [[0x00]] }

/-- R156: OUTPUT sends each of the eighteen values through its own channel's curve, then the latch; a wrong count is refused
without a bus write; no block state changes. -/
def Obligations.OutputCorrectsSendsAndLatches : Prop :=
  ∀ (vals : List Byte) (s : State),
    (∀ hl : vals.length = 18, s.reply 0 = .ok → s.reply 1 = .ok → ∃ p : PwmVec,
      (∀ c : Fin 18, s.ovrValid[c] = true → p[c] = s.ovr[c][(vals[c.val]'(by omega)).toNat]'(BitVec.isLt _)) ∧
      (∀ c : Fin 18, s.ovrValid[c] = false → p[c] = s.shared[(vals[c.val]'(by omega)).toNat]'(BitVec.isLt _)) ∧
      exec (.output vals) s = .next { s with
        dev := { s.dev with pwmStage := p, pwmLive := p, enLive := s.dev.enStage },
        busLog := s.busLog ++ [⟨0x54, 0x01, p.toList, .ok⟩, ⟨0x54, 0x16, [0xFF], .ok⟩],
        transport := s.transport.tail.tail, responses := s.responses ++ [[0x00]] }) ∧
    (vals.length ≠ 18 → exec (.output vals) s = .next { s with responses := s.responses ++ [[0x01, 0x02]] })

/-- R157: OUTPUT_RAW sends the eighteen bytes as given, then the latch; a wrong count is refused without a bus write; no block
state is read or changed. -/
def Obligations.OutputRawSendsTheBytesAndLatches : Prop :=
  ∀ (vals : List Byte) (s : State),
    (vals.length = 18 → s.reply 0 = .ok → s.reply 1 = .ok → ∃ p : PwmVec, p.toList = vals ∧
      exec (.outputRaw vals) s = .next { s with
        dev := { s.dev with pwmStage := p, pwmLive := p, enLive := s.dev.enStage },
        busLog := s.busLog ++ [⟨0x54, 0x01, vals, .ok⟩, ⟨0x54, 0x16, [0xFF], .ok⟩],
        transport := s.transport.tail.tail, responses := s.responses ++ [[0x00]] }) ∧
    (vals.length ≠ 18 → exec (.outputRaw vals) s = .next { s with responses := s.responses ++ [[0x01, 0x02]] })

/-- R151, R161, R184: for each of the three write-then-latch operations with its register write `c`: a failed register write
ends it without a latch, each register it addresses old or new; a failed latch leaves the register write done and each live
register old or new; the error names the failed write, and no block state changes. -/
def Obligations.FailedWriteEndsWriteThenLatch : Prop :=
  ∀ (s : State) (i : Instr) (c : BusCmd),
    ((∃ mask, i = .enableLeds mask ∧ c = .enableChannels (encMask mask)) ∨
     (∃ vals v, pwmVecOf vals = some v ∧
       (i = .output vals ∧ c = .setPwm (gammaCorrect s v) ∨ i = .outputRaw vals ∧ c = .setPwm v))) →
    (s.reply 0 = .fail → ∃ d, BetweenDevices s.dev (accept c s.dev) d ∧ exec i s = .next { s with
      dev := d, busLog := s.busLog ++ [⟨0x54, c.code, c.payload, .fail⟩], transport := s.transport.tail,
      draws := s.draws + 1, responses := s.responses ++ [[0x02, c.code]] }) ∧
    (s.reply 0 = .ok → s.reply 1 = .fail → ∃ d,
      BetweenDevices (accept c s.dev)
        { accept c s.dev with pwmLive := (accept c s.dev).pwmStage, enLive := (accept c s.dev).enStage } d ∧
      exec i s = .next { s with
        dev := d, busLog := s.busLog ++ [⟨0x54, c.code, c.payload, .ok⟩, ⟨0x54, 0x16, [0xFF], .fail⟩],
        transport := s.transport.tail.tail, draws := s.draws + 1, responses := s.responses ++ [[0x02, 0x16]] })

/-- R48, R151, R216, R217: every step keeps the write-then-latch discipline of the bus log. -/
def Obligations.EveryStepKeepsTheLatchDiscipline : Prop :=
  ∀ s t : State, s.busLatched = true → step s = .next t → t.busLatched = true

/-- R42: every step keeps the bus log within the table of the five commands. -/
def Obligations.EveryStepEmitsOnlyTableWrites : Prop :=
  ∀ s t : State, s.busInTable = true → step s = .next t → t.busInTable = true

/-- R81, R181 to R184: every step keeps every response in its form. -/
def Obligations.EveryStepKeepsTheResponseForm : Prop :=
  ∀ s t : State, s.responsesShaped = true → step s = .next t → t.responsesShaped = true

/-- R222, log 14: at reset nothing has been observed yet, so the three record invariants hold there. -/
def Obligations.RecordInvariantsHoldAtReset : Prop :=
  State.reset.busLatched = true ∧ State.reset.busInTable = true ∧ State.reset.responsesShaped = true

/-- R158: nothing the block does depends on `CTL.enabled`: with the flag changed, a step does the same but for the flag. -/
def Obligations.BehaviourIgnoresTheEnabledFlag : Prop :=
  ∀ (s : State) (b : Bool),
    (∀ t, step s = .next t → ∃ b', step { s with enabled := b } = .next { t with enabled := b' }) ∧
    (∀ r, step s = .fault r → step { s with enabled := b } = .fault r)

/-- R160, R23: the transitions of `CTL.enabled` over every instruction and the block reset. -/
def Obligations.EnabledFlagTransitions : Prop :=
  (∀ s t : State, exec .enable s = .next t → t.enabled = if s.reply 0 = .ok then true else s.enabled) ∧
  (∀ s t : State, exec .disable s = .next t → t.enabled = if s.reply 0 = .ok then false else s.enabled) ∧
  (∀ (i : Instr) (s t : State), i ≠ .enable → i ≠ .disable → exec i s = .next t → t.enabled = s.enabled) ∧
  (∀ s : State, (blockReset s).enabled = false)

/-- R159: the number of bus writes of an operation that gave a response, by the status of the response. -/
def Obligations.BusWriteCounts : Prop :=
  ∀ (i : Instr) (s t : State) (status : Byte) (body : List Byte), exec i s = .next t →
    t.responses = s.responses ++ [status :: body] →
    (status = 0x00 → t.busLog.length = s.busLog.length + busWritesOnSuccess i) ∧
    (status = 0x01 → t.busLog = s.busLog) ∧
    (status = 0x02 → t.busLog.length = s.busLog.length + 1 ∨ t.busLog.length = s.busLog.length + 2)

/-- R19: no operation but those of CTL touches the bus or the device, and no operation but the three writers of GLUT writes
GLUT state. -/
def Obligations.EncodingAndTablesDoNoBusWrite : Prop :=
  ∀ (i : Instr) (s t : State), exec i s = .next t →
    (isCtl i = false → t.busLog = s.busLog ∧ t.dev = s.dev ∧ t.transport = s.transport ∧ t.waiting = s.waiting ∧
      t.draws = s.draws) ∧
    (writesGlut i = false → t.shared = s.shared ∧ t.ovrValid = s.ovrValid ∧ t.ovr = s.ovr)

/-- R219: a LUT write changes no device register and no output. -/
def Obligations.TableChangesAreNotRetroactive : Prop :=
  ∀ (i : Instr) (s t : State), writesGlut i = true → exec i s = .next t →
    t.dev = s.dev ∧ ∀ c : Channel, outputOf t.dev c = outputOf s.dev c

/-- R186: an operation answered with InvalidArgument changes nothing but its response, and one answered with TransportError
changes no block state. -/
def Obligations.ErrorsLeaveTheBlockAsItWas : Prop :=
  ∀ (i : Instr) (s t : State) (body : List Byte), exec i s = .next t →
    (t.responses = s.responses ++ [0x01 :: body] → t = { s with responses := t.responses }) ∧
    (t.responses = s.responses ++ [0x02 :: body] → SameBlock s t)

/-- R185: when several errors apply, the first in the rule's order is reported: (1) an empty frame; (2) an illegal opcode,
whatever the length; (3) a length that does not fit the format, whatever count, channel and exponent the frame carries and
whatever the transport would answer; (4) the count, before (5) the channel and before (7) the transport; (5) the channel and
(6) the exponent, which no frame carries together and which are the last checks of operations that make no bus write. -/
def Obligations.ErrorsAreReportedInOrder : Prop :=
  decode [] = .error (.invalidArgument .badLength) ∧
  (∀ (op : Byte) (body : Frame), op = 0x00 ∨ 0x0E ≤ op.toNat → decode (op :: body) = .error (.illegalOpcode op)) ∧
  (∀ (s : State) (op : Byte) (body : Frame) (rest : List Stimulus), s.Ready (op :: body) rest →
    (op ∈ [0x01, 0x02, 0x03] ∧ body.length ≠ 0 ∨
     op ∈ [0x04, 0x0A] ∧ body.length ≠ 4 ∨
     op ∈ [0x05, 0x06, 0x0B] ∧ (∀ len vals, body = len :: vals → vals.length ≠ len.toNat) ∨
     op = 0x07 ∧ (∀ ch l0 l1 ents, body = ch :: l0 :: l1 :: ents → ents.length ≠ l0.toNat + 256 * l1.toNat) ∨
     op ∈ [0x08, 0x09, 0x0C] ∧ body.length ≠ 8 ∨
     op = 0x0D ∧ body.length ≠ 2) →
    step s = .next { s with inbox := rest, responses := s.responses ++ [[0x01, 0x01]] }) ∧
  (∀ (ch : Byte) (ents : List Byte) (s : State), ents.length ≠ 256 →
    exec (.setChannelCurve ch ents) s = .next { s with responses := s.responses ++ [[0x01, 0x02]] }) ∧
  (∀ (ch : Byte) (ents : List Byte) (s : State), ents.length = 256 → 18 ≤ ch.toNat →
    exec (.setChannelCurve ch ents) s = .next { s with responses := s.responses ++ [[0x01, 0x03]] }) ∧
  (∀ (vals : List Byte) (s : State), vals.length ≠ 18 → s.reply 0 = .fail →
    exec (.output vals) s = .next { s with responses := s.responses ++ [[0x01, 0x02]] } ∧
    exec (.outputRaw vals) s = .next { s with responses := s.responses ++ [[0x01, 0x02]] })

/-! The reference device. -/

/-- R60: every command is idempotent on the reference device. For group bytes with bits 7:6 set, which the block never sends,
this is the model's choice (log 22). -/
def Obligations.DeviceCommandsAreIdempotent : Prop :=
  ∀ (c : BusCmd) (d : Device), accept c (accept c d) = accept c d

/-- R51 to R54: what the four commands with a fixed effect do to every register of the device. For group bytes with bits 7:6
set, which the block never sends, that those bits are dropped is the model's choice (log 22). -/
def Obligations.DeviceTakesItsCommands : Prop :=
  ∀ (d : Device) (on : Bool) (v : PwmVec) (b : GroupBytes),
    accept (.outputEnable on) d = { d with oe := on } ∧
    accept (.setPwm v) d = { d with pwmStage := v } ∧
    (∃ en : Vector (BitVec 6) 3, accept (.enableChannels b) d = { d with enStage := en } ∧
      ∀ g : Fin 3, (en[g]).toNat = (b[g]).toNat % 64) ∧
    accept .latch d = { d with pwmLive := d.pwmStage, enLive := d.enStage }

/-- R58: after a bus write that failed, `DEV.oe` may be any value if the write was 0x00, every other addressed register has its
old or its new value, and every register not addressed is unchanged; a free value decides. For group bytes with bits
7:6 set, which the block never sends, this rests on the model's choice (log 22). -/
def Obligations.FailedWriteLeavesRegistersOldOrNew : Prop :=
  ∀ (n : Nat) (d : Device),
    (∀ on : Bool, ∃ oe : Bool, afterFailed n (.outputEnable on) d = { d with oe := oe }) ∧
    (∀ c : BusCmd, (∀ on, c ≠ .outputEnable on) → BetweenDevices d (accept c d) (afterFailed n c d)) ∧
    (∀ v : PwmVec, afterFailed n (.setPwm v) d = { d with pwmStage := (afterFailed n (.setPwm v) d).pwmStage }) ∧
    (∀ b : GroupBytes, afterFailed n (.enableChannels b) d =
      { d with enStage := (afterFailed n (.enableChannels b) d).enStage }) ∧
    (afterFailed n .latch d =
      { d with pwmLive := (afterFailed n .latch d).pwmLive, enLive := (afterFailed n .latch d).enLive }) ∧
    (afterFailed n .deviceReset d).oe = d.oe

/-- R56, R57: in software shutdown every channel is off, every register is kept, and the other commands act as they do when
output is enabled. For group bytes with bits 7:6 set, which the block never sends, this rests on the model's choice (log 22). -/
def Obligations.ShutdownKeepsRegisters : Prop :=
  ∀ d : Device,
    (∀ c : Channel, outputOf (accept (.outputEnable false) d) c = none) ∧
    (∀ c : Channel, outputOf (accept (.outputEnable true) d) c =
      if (d.enLive[c.val / 6]'(by omega)).getLsbD (c.val % 6) then some d.pwmLive[c] else none) ∧
    (∀ c : BusCmd, (∀ on, c ≠ .outputEnable on) →
      accept c { d with oe := false } = { accept c { d with oe := true } with oe := false }) ∧
    accept (.outputEnable true) (accept (.outputEnable false) d) = { d with oe := true }

/-- R214, R56: after ENABLE, ENABLE_LEDS and OUTPUT or OUTPUT_RAW each answered OK, the device drives exactly the channels of
the mask, each at the value written, whatever the power-on values were. -/
def Obligations.BootSequenceDrivesTheOutputs : Prop :=
  ∀ (s0 : State) (mask : BitVec 32) (vals : List Byte) (hl : vals.length = 18), (∀ k, k < 5 → s0.reply k = .ok) →
    ∃ s1 s2, exec .enable s0 = .next s1 ∧ exec (.enableLeds mask) s1 = .next s2 ∧ s2.enabledOut = true ∧
      (∃ s3, exec (.outputRaw vals) s2 = .next s3 ∧ ∀ c : Channel, outputOf s3.dev c =
        if mask.getLsbD c.val then some (vals[c.val]'(by omega)) else none) ∧
      (∃ s3, exec (.output vals) s2 = .next s3 ∧ ∀ c : Channel, outputOf s3.dev c =
        if mask.getLsbD c.val then some (lutRead s0 c (vals[c.val]'(by omega))) else none)

/-- R218: after a failed latch of any of the three write-then-latch operations the register write stays staged and each live
register is stale or staged (R58, R161). In any later state that still holds those stage registers, whatever came between, any
of the three operations whose writes return ok commits all stage registers: its own write and the stale one. The last two
clauses say it out for a stale mask under a PWM write and a stale PWM write under a mask. -/
def Obligations.NextLatchCommitsTheStaleWrite : Prop :=
  ∀ (s : State) (i : Instr) (c : BusCmd), WritesThenLatches s i c → s.reply 0 = .ok → s.reply 1 = .fail →
    ∃ s1, exec i s = .next s1 ∧ s1.responses = s.responses ++ [[0x02, 0x16]] ∧
      s1.dev.pwmStage = (accept c s.dev).pwmStage ∧ s1.dev.enStage = (accept c s.dev).enStage ∧
      (∀ k : Fin 18, s1.dev.pwmLive[k] = s.dev.pwmLive[k] ∨ s1.dev.pwmLive[k] = s1.dev.pwmStage[k]) ∧
      (∀ g : Fin 3, s1.dev.enLive[g] = s.dev.enLive[g] ∨ s1.dev.enLive[g] = s1.dev.enStage[g]) ∧
      ∀ (s2 : State) (j : Instr) (c2 : BusCmd), s2.dev.pwmStage = s1.dev.pwmStage → s2.dev.enStage = s1.dev.enStage →
        WritesThenLatches s2 j c2 → s2.reply 0 = .ok → s2.reply 1 = .ok →
        ∃ s3, exec j s2 = .next s3 ∧
          s3.dev.pwmLive = (accept c2 (accept c s.dev)).pwmStage ∧ s3.dev.enLive = (accept c2 (accept c s.dev)).enStage ∧
          (∀ (mask : BitVec 32) (v : PwmVec), c = .enableChannels (encMask mask) → c2 = .setPwm v →
            s3.dev.pwmLive = v ∧
              ∀ k : Channel, (s3.dev.enLive[k.val / 6]'(by omega)).getLsbD (k.val % 6) = mask.getLsbD k.val) ∧
          (∀ (mask : BitVec 32) (v : PwmVec), c = .setPwm v → c2 = .enableChannels (encMask mask) →
            s3.dev.pwmLive = v ∧
              ∀ k : Channel, (s3.dev.enLive[k.val / 6]'(by omega)).getLsbD (k.val % 6) = mask.getLsbD k.val)

/-! Reset. -/

/-- R32: the reset values the spec states. -/
def Obligations.ResetValues : Prop :=
  State.reset.enabled = false ∧ State.reset.enabledOut = false ∧
  State.reset.shared.toList = Config.defaultCurveTable ∧ (∀ c : Fin 18, State.reset.ovrValid[c] = false)

/-- R210, R211, R212: the block reset input puts the block state at its reset values, makes the block ready even out of a hang
(the latter is the model's reading, log 13), issues no bus write and does not touch the device. -/
def Obligations.BlockResetRestoresTheBlockAlone : Prop :=
  ∀ (s : State) (rest : List Stimulus), s.inbox = .blockReset :: rest → ∃ t,
    step s = .next t ∧ t.inbox = rest ∧ t.waiting = none ∧
    t.enabledOut = false ∧ t.shared = Config.defaultCurve ∧ (∀ c : Fin 18, t.ovrValid[c] = false) ∧
    (∀ (c : Fin 18) (i : Byte), lutRead t c i = Config.defaultCurve[i.toNat]'i.isLt) ∧
    t.busLog = s.busLog ∧ t.dev = s.dev ∧ t.transport = s.transport ∧ t.responses = s.responses
end

