-- ==== Sys2Proof/Laws/State.lean ====
section
/-! SUPPORT. One lemma per field per update of the state, so that no proof unfolds a record update. -/

namespace Sys2Proof.Machine

@[simp] theorem respond_enabled (st : Byte) (bs : List Byte) (s : State) : (respond st bs s).enabled = s.enabled := rfl
@[simp] theorem respond_shared (st : Byte) (bs : List Byte) (s : State) : (respond st bs s).shared = s.shared := rfl
@[simp] theorem respond_ovrValid (st : Byte) (bs : List Byte) (s : State) : (respond st bs s).ovrValid = s.ovrValid := rfl
@[simp] theorem respond_ovr (st : Byte) (bs : List Byte) (s : State) : (respond st bs s).ovr = s.ovr := rfl
@[simp] theorem respond_dev (st : Byte) (bs : List Byte) (s : State) : (respond st bs s).dev = s.dev := rfl
@[simp] theorem respond_inbox (st : Byte) (bs : List Byte) (s : State) : (respond st bs s).inbox = s.inbox := rfl
@[simp] theorem respond_responses (st : Byte) (bs : List Byte) (s : State) : (respond st bs s).responses = s.responses ++ [st :: bs] := rfl
@[simp] theorem respond_busLog (st : Byte) (bs : List Byte) (s : State) : (respond st bs s).busLog = s.busLog := rfl
@[simp] theorem respond_transport (st : Byte) (bs : List Byte) (s : State) : (respond st bs s).transport = s.transport := rfl
@[simp] theorem respond_waiting (st : Byte) (bs : List Byte) (s : State) : (respond st bs s).waiting = s.waiting := rfl
@[simp] theorem respond_draws (st : Byte) (bs : List Byte) (s : State) : (respond st bs s).draws = s.draws := rfl

@[simp] theorem respondOk_enabled (bs : List Byte) (s : State) : (respondOk bs s).enabled = s.enabled := rfl
@[simp] theorem respondOk_shared (bs : List Byte) (s : State) : (respondOk bs s).shared = s.shared := rfl
@[simp] theorem respondOk_ovrValid (bs : List Byte) (s : State) : (respondOk bs s).ovrValid = s.ovrValid := rfl
@[simp] theorem respondOk_ovr (bs : List Byte) (s : State) : (respondOk bs s).ovr = s.ovr := rfl
@[simp] theorem respondOk_dev (bs : List Byte) (s : State) : (respondOk bs s).dev = s.dev := rfl
@[simp] theorem respondOk_inbox (bs : List Byte) (s : State) : (respondOk bs s).inbox = s.inbox := rfl
@[simp] theorem respondOk_responses (bs : List Byte) (s : State) : (respondOk bs s).responses = s.responses ++ [statusOk :: bs] := rfl
@[simp] theorem respondOk_busLog (bs : List Byte) (s : State) : (respondOk bs s).busLog = s.busLog := rfl
@[simp] theorem respondOk_transport (bs : List Byte) (s : State) : (respondOk bs s).transport = s.transport := rfl
@[simp] theorem respondOk_waiting (bs : List Byte) (s : State) : (respondOk bs s).waiting = s.waiting := rfl
@[simp] theorem respondOk_draws (bs : List Byte) (s : State) : (respondOk bs s).draws = s.draws := rfl

@[simp] theorem raise_enabled (e : Error) (s : State) : (raise e s).enabled = s.enabled := rfl
@[simp] theorem raise_shared (e : Error) (s : State) : (raise e s).shared = s.shared := rfl
@[simp] theorem raise_ovrValid (e : Error) (s : State) : (raise e s).ovrValid = s.ovrValid := rfl
@[simp] theorem raise_ovr (e : Error) (s : State) : (raise e s).ovr = s.ovr := rfl
@[simp] theorem raise_dev (e : Error) (s : State) : (raise e s).dev = s.dev := rfl
@[simp] theorem raise_inbox (e : Error) (s : State) : (raise e s).inbox = s.inbox := rfl
@[simp] theorem raise_responses (e : Error) (s : State) : (raise e s).responses = s.responses ++ [[errorStatus e, errorInfo e]] := rfl
@[simp] theorem raise_busLog (e : Error) (s : State) : (raise e s).busLog = s.busLog := rfl
@[simp] theorem raise_transport (e : Error) (s : State) : (raise e s).transport = s.transport := rfl
@[simp] theorem raise_waiting (e : Error) (s : State) : (raise e s).waiting = s.waiting := rfl
@[simp] theorem raise_draws (e : Error) (s : State) : (raise e s).draws = s.draws := rfl

@[simp] theorem setEnabled_enabled (b : Bool) (s : State) : (setEnabled b s).enabled = b := rfl
@[simp] theorem setEnabled_shared (b : Bool) (s : State) : (setEnabled b s).shared = s.shared := rfl
@[simp] theorem setEnabled_ovrValid (b : Bool) (s : State) : (setEnabled b s).ovrValid = s.ovrValid := rfl
@[simp] theorem setEnabled_ovr (b : Bool) (s : State) : (setEnabled b s).ovr = s.ovr := rfl
@[simp] theorem setEnabled_dev (b : Bool) (s : State) : (setEnabled b s).dev = s.dev := rfl
@[simp] theorem setEnabled_inbox (b : Bool) (s : State) : (setEnabled b s).inbox = s.inbox := rfl
@[simp] theorem setEnabled_responses (b : Bool) (s : State) : (setEnabled b s).responses = s.responses := rfl
@[simp] theorem setEnabled_busLog (b : Bool) (s : State) : (setEnabled b s).busLog = s.busLog := rfl
@[simp] theorem setEnabled_transport (b : Bool) (s : State) : (setEnabled b s).transport = s.transport := rfl
@[simp] theorem setEnabled_waiting (b : Bool) (s : State) : (setEnabled b s).waiting = s.waiting := rfl
@[simp] theorem setEnabled_draws (b : Bool) (s : State) : (setEnabled b s).draws = s.draws := rfl

@[simp] theorem lutWriteOvr_enabled (k : Channel) (v : Curve) (s : State) : (lutWriteOvr k v s).enabled = s.enabled := rfl
@[simp] theorem lutWriteOvr_shared (k : Channel) (v : Curve) (s : State) : (lutWriteOvr k v s).shared = s.shared := rfl
@[simp] theorem lutWriteOvr_ovrValid (k : Channel) (v : Curve) (s : State) : (lutWriteOvr k v s).ovrValid = s.ovrValid.set k.val true := rfl
@[simp] theorem lutWriteOvr_ovr (k : Channel) (v : Curve) (s : State) : (lutWriteOvr k v s).ovr = s.ovr.set k.val v := rfl
@[simp] theorem lutWriteOvr_dev (k : Channel) (v : Curve) (s : State) : (lutWriteOvr k v s).dev = s.dev := rfl
@[simp] theorem lutWriteOvr_inbox (k : Channel) (v : Curve) (s : State) : (lutWriteOvr k v s).inbox = s.inbox := rfl
@[simp] theorem lutWriteOvr_responses (k : Channel) (v : Curve) (s : State) : (lutWriteOvr k v s).responses = s.responses := rfl
@[simp] theorem lutWriteOvr_busLog (k : Channel) (v : Curve) (s : State) : (lutWriteOvr k v s).busLog = s.busLog := rfl
@[simp] theorem lutWriteOvr_transport (k : Channel) (v : Curve) (s : State) : (lutWriteOvr k v s).transport = s.transport := rfl
@[simp] theorem lutWriteOvr_waiting (k : Channel) (v : Curve) (s : State) : (lutWriteOvr k v s).waiting = s.waiting := rfl
@[simp] theorem lutWriteOvr_draws (k : Channel) (v : Curve) (s : State) : (lutWriteOvr k v s).draws = s.draws := rfl

@[simp] theorem lutWriteShared_enabled (v : Curve) (s : State) : (lutWriteShared v s).enabled = s.enabled := rfl
@[simp] theorem lutWriteShared_shared (v : Curve) (s : State) : (lutWriteShared v s).shared = v := rfl
@[simp] theorem lutWriteShared_ovrValid (v : Curve) (s : State) : (lutWriteShared v s).ovrValid = s.ovrValid := rfl
@[simp] theorem lutWriteShared_ovr (v : Curve) (s : State) : (lutWriteShared v s).ovr = s.ovr := rfl
@[simp] theorem lutWriteShared_dev (v : Curve) (s : State) : (lutWriteShared v s).dev = s.dev := rfl
@[simp] theorem lutWriteShared_inbox (v : Curve) (s : State) : (lutWriteShared v s).inbox = s.inbox := rfl
@[simp] theorem lutWriteShared_responses (v : Curve) (s : State) : (lutWriteShared v s).responses = s.responses := rfl
@[simp] theorem lutWriteShared_busLog (v : Curve) (s : State) : (lutWriteShared v s).busLog = s.busLog := rfl
@[simp] theorem lutWriteShared_transport (v : Curve) (s : State) : (lutWriteShared v s).transport = s.transport := rfl
@[simp] theorem lutWriteShared_waiting (v : Curve) (s : State) : (lutWriteShared v s).waiting = s.waiting := rfl
@[simp] theorem lutWriteShared_draws (v : Curve) (s : State) : (lutWriteShared v s).draws = s.draws := rfl

@[simp] theorem clearOverrides_enabled (s : State) : (clearOverrides s).enabled = s.enabled := rfl
@[simp] theorem clearOverrides_shared (s : State) : (clearOverrides s).shared = s.shared := rfl
@[simp] theorem clearOverrides_ovrValid (s : State) : (clearOverrides s).ovrValid = Vector.replicate 18 false := rfl
@[simp] theorem clearOverrides_ovr (s : State) : (clearOverrides s).ovr = s.ovr := rfl
@[simp] theorem clearOverrides_dev (s : State) : (clearOverrides s).dev = s.dev := rfl
@[simp] theorem clearOverrides_inbox (s : State) : (clearOverrides s).inbox = s.inbox := rfl
@[simp] theorem clearOverrides_responses (s : State) : (clearOverrides s).responses = s.responses := rfl
@[simp] theorem clearOverrides_busLog (s : State) : (clearOverrides s).busLog = s.busLog := rfl
@[simp] theorem clearOverrides_transport (s : State) : (clearOverrides s).transport = s.transport := rfl
@[simp] theorem clearOverrides_waiting (s : State) : (clearOverrides s).waiting = s.waiting := rfl
@[simp] theorem clearOverrides_draws (s : State) : (clearOverrides s).draws = s.draws := rfl

@[simp] theorem issue_ok_enabled (k : BusCmd) (s : State) : (issue k .ok s).enabled = s.enabled := rfl
@[simp] theorem issue_ok_shared (k : BusCmd) (s : State) : (issue k .ok s).shared = s.shared := rfl
@[simp] theorem issue_ok_ovrValid (k : BusCmd) (s : State) : (issue k .ok s).ovrValid = s.ovrValid := rfl
@[simp] theorem issue_ok_ovr (k : BusCmd) (s : State) : (issue k .ok s).ovr = s.ovr := rfl
@[simp] theorem issue_ok_dev (k : BusCmd) (s : State) : (issue k .ok s).dev = accept k s.dev := rfl
@[simp] theorem issue_ok_inbox (k : BusCmd) (s : State) : (issue k .ok s).inbox = s.inbox := rfl
@[simp] theorem issue_ok_responses (k : BusCmd) (s : State) : (issue k .ok s).responses = s.responses := rfl
@[simp] theorem issue_ok_busLog (k : BusCmd) (s : State) : (issue k .ok s).busLog = s.busLog ++ [⟨Config.devAddr, k.code, k.payload, .ok⟩] := rfl
@[simp] theorem issue_ok_transport (k : BusCmd) (s : State) : (issue k .ok s).transport = s.transport.tail := rfl
@[simp] theorem issue_ok_waiting (k : BusCmd) (s : State) : (issue k .ok s).waiting = s.waiting := rfl
@[simp] theorem issue_ok_draws (k : BusCmd) (s : State) : (issue k .ok s).draws = s.draws := rfl

@[simp] theorem issue_fail_enabled (k : BusCmd) (s : State) : (issue k .fail s).enabled = s.enabled := rfl
@[simp] theorem issue_fail_shared (k : BusCmd) (s : State) : (issue k .fail s).shared = s.shared := rfl
@[simp] theorem issue_fail_ovrValid (k : BusCmd) (s : State) : (issue k .fail s).ovrValid = s.ovrValid := rfl
@[simp] theorem issue_fail_ovr (k : BusCmd) (s : State) : (issue k .fail s).ovr = s.ovr := rfl
@[simp] theorem issue_fail_dev (k : BusCmd) (s : State) : (issue k .fail s).dev = afterFailed s.draws k s.dev := rfl
@[simp] theorem issue_fail_inbox (k : BusCmd) (s : State) : (issue k .fail s).inbox = s.inbox := rfl
@[simp] theorem issue_fail_responses (k : BusCmd) (s : State) : (issue k .fail s).responses = s.responses := rfl
@[simp] theorem issue_fail_busLog (k : BusCmd) (s : State) : (issue k .fail s).busLog = s.busLog ++ [⟨Config.devAddr, k.code, k.payload, .fail⟩] := rfl
@[simp] theorem issue_fail_transport (k : BusCmd) (s : State) : (issue k .fail s).transport = s.transport.tail := rfl
@[simp] theorem issue_fail_waiting (k : BusCmd) (s : State) : (issue k .fail s).waiting = s.waiting := rfl
@[simp] theorem issue_fail_draws (k : BusCmd) (s : State) : (issue k .fail s).draws = s.draws + 1 := rfl

@[simp] theorem issue_never_enabled (k : BusCmd) (s : State) : (issue k .never s).enabled = s.enabled := rfl
@[simp] theorem issue_never_shared (k : BusCmd) (s : State) : (issue k .never s).shared = s.shared := rfl
@[simp] theorem issue_never_ovrValid (k : BusCmd) (s : State) : (issue k .never s).ovrValid = s.ovrValid := rfl
@[simp] theorem issue_never_ovr (k : BusCmd) (s : State) : (issue k .never s).ovr = s.ovr := rfl
@[simp] theorem issue_never_dev (k : BusCmd) (s : State) : (issue k .never s).dev = afterFailed s.draws k s.dev := rfl
@[simp] theorem issue_never_inbox (k : BusCmd) (s : State) : (issue k .never s).inbox = s.inbox := rfl
@[simp] theorem issue_never_responses (k : BusCmd) (s : State) : (issue k .never s).responses = s.responses := rfl
@[simp] theorem issue_never_busLog (k : BusCmd) (s : State) : (issue k .never s).busLog = s.busLog ++ [⟨Config.devAddr, k.code, k.payload, .never⟩] := rfl
@[simp] theorem issue_never_transport (k : BusCmd) (s : State) : (issue k .never s).transport = s.transport.tail := rfl
@[simp] theorem issue_never_waiting (k : BusCmd) (s : State) : (issue k .never s).waiting = some k := rfl
@[simp] theorem issue_never_draws (k : BusCmd) (s : State) : (issue k .never s).draws = s.draws + 1 := rfl

@[simp] theorem blockReset_enabled (s : State) : (blockReset s).enabled = false := rfl
@[simp] theorem blockReset_shared (s : State) : (blockReset s).shared = Config.defaultCurve := rfl
@[simp] theorem blockReset_ovrValid (s : State) : (blockReset s).ovrValid = Vector.replicate 18 false := rfl
@[simp] theorem blockReset_ovr (s : State) : (blockReset s).ovr = Config.ovrAtReset s.draws := rfl
@[simp] theorem blockReset_dev (s : State) : (blockReset s).dev = s.dev := rfl
@[simp] theorem blockReset_inbox (s : State) : (blockReset s).inbox = s.inbox := rfl
@[simp] theorem blockReset_responses (s : State) : (blockReset s).responses = s.responses := rfl
@[simp] theorem blockReset_busLog (s : State) : (blockReset s).busLog = s.busLog := rfl
@[simp] theorem blockReset_transport (s : State) : (blockReset s).transport = s.transport := rfl
@[simp] theorem blockReset_waiting (s : State) : (blockReset s).waiting = none := rfl
@[simp] theorem blockReset_draws (s : State) : (blockReset s).draws = s.draws + 1 := rfl

@[simp] theorem reset_enabled : State.reset.enabled = false := rfl
@[simp] theorem reset_shared : State.reset.shared = Config.defaultCurve := rfl
@[simp] theorem reset_ovrValid : State.reset.ovrValid = Vector.replicate 18 false := rfl
@[simp] theorem reset_ovr : State.reset.ovr = Config.ovrAtReset 0 := rfl
@[simp] theorem reset_dev : State.reset.dev = Config.devAtReset := rfl
@[simp] theorem reset_inbox : State.reset.inbox = [] := rfl
@[simp] theorem reset_responses : State.reset.responses = [] := rfl
@[simp] theorem reset_busLog : State.reset.busLog = [] := rfl
@[simp] theorem reset_transport : State.reset.transport = [] := rfl
@[simp] theorem reset_waiting : State.reset.waiting = none := rfl
@[simp] theorem reset_draws : State.reset.draws = 1 := rfl

end Sys2Proof.Machine
end

