-- ==== Sys2Proof/Laws/Device.lean ====
section
/-! SUPPORT. The registers of the reference device after each command (spec R51 to R55) and after a mix of two device states
(R58). -/

namespace Sys2Proof.Machine

@[simp] theorem mix_oe (p : DevReg → Bool) (a b : Device) :
    (mixDevices p a b).oe = if p .oe then b.oe else a.oe := rfl

@[simp] theorem mix_pwmStage (p : DevReg → Bool) (a b : Device) (k : Nat) (h : k < 18) :
    (mixDevices p a b).pwmStage[k] = if p (.pwmStage ⟨k, h⟩) then b.pwmStage[k] else a.pwmStage[k] := by
  simp [mixDevices]

@[simp] theorem mix_pwmLive (p : DevReg → Bool) (a b : Device) (k : Nat) (h : k < 18) :
    (mixDevices p a b).pwmLive[k] = if p (.pwmLive ⟨k, h⟩) then b.pwmLive[k] else a.pwmLive[k] := by
  simp [mixDevices]

@[simp] theorem mix_enStage (p : DevReg → Bool) (a b : Device) (g : Nat) (h : g < 3) :
    (mixDevices p a b).enStage[g] = if p (.enStage ⟨g, h⟩) then b.enStage[g] else a.enStage[g] := by
  simp [mixDevices]

@[simp] theorem mix_enLive (p : DevReg → Bool) (a b : Device) (g : Nat) (h : g < 3) :
    (mixDevices p a b).enLive[g] = if p (.enLive ⟨g, h⟩) then b.enLive[g] else a.enLive[g] := by
  simp [mixDevices]

/-- A register bank whose new contents are the old ones is kept by the mix. -/
theorem mix_pwmStage_same (p : DevReg → Bool) {a b : Device} (h : b.pwmStage = a.pwmStage) :
    (mixDevices p a b).pwmStage = a.pwmStage := by
  ext k hk
  simp [h]

theorem mix_pwmLive_same (p : DevReg → Bool) {a b : Device} (h : b.pwmLive = a.pwmLive) :
    (mixDevices p a b).pwmLive = a.pwmLive := by
  ext k hk
  simp [h]

theorem mix_enStage_same (p : DevReg → Bool) {a b : Device} (h : b.enStage = a.enStage) :
    (mixDevices p a b).enStage = a.enStage := by
  ext k hk
  simp [h]

theorem mix_enLive_same (p : DevReg → Bool) {a b : Device} (h : b.enLive = a.enLive) :
    (mixDevices p a b).enLive = a.enLive := by
  ext k hk
  simp [h]

@[simp] theorem accept_outputEnable (b : Bool) (d : Device) : accept (.outputEnable b) d = { d with oe := b } := rfl

@[simp] theorem accept_setPwm (v : PwmVec) (d : Device) : accept (.setPwm v) d = { d with pwmStage := v } := rfl

@[simp] theorem accept_enableChannels_enStage (b : GroupBytes) (d : Device) (g : Nat) (h : g < 3) :
    (accept (.enableChannels b) d).enStage[g] = b[g].extractLsb' 0 6 := by
  simp [accept]

@[simp] theorem accept_latch (d : Device) :
    accept .latch d = { d with pwmLive := d.pwmStage, enLive := d.enStage } := rfl

@[simp] theorem accept_deviceReset_oe (d : Device) : (accept .deviceReset d).oe = d.oe := rfl

@[simp] theorem accept_deviceReset_pwmStage (d : Device) : (accept .deviceReset d).pwmStage = Config.devPor.pwmStage := rfl

@[simp] theorem accept_deviceReset_enStage (d : Device) : (accept .deviceReset d).enStage = Config.devPor.enStage := rfl

@[simp] theorem accept_deviceReset_pwmLive (d : Device) (k : Nat) (h : k < 18) :
    (accept .deviceReset d).pwmLive[k] =
      if Config.resetAffectsLatched (.pwmLive ⟨k, h⟩) then Config.devPor.pwmLive[k] else d.pwmLive[k] := by
  simp [accept]

@[simp] theorem accept_deviceReset_enLive (d : Device) (g : Nat) (h : g < 3) :
    (accept .deviceReset d).enLive[g] =
      if Config.resetAffectsLatched (.enLive ⟨g, h⟩) then Config.devPor.enLive[g] else d.enLive[g] := by
  simp [accept]

/-- A mix takes every register from one of the two. -/
theorem between_mix (p : DevReg → Bool) (a b : Device) : BetweenDevices a b (mixDevices p a b) := by
  refine ⟨?_, fun k => ?_, fun k => ?_, fun g => ?_, fun g => ?_⟩
  · cases h : p .oe <;> simp [h]
  · cases h : p (.pwmStage k) <;> simp [h]
  · cases h : p (.pwmLive k) <;> simp [h]
  · cases h : p (.enStage g) <;> simp [h]
  · cases h : p (.enLive g) <;> simp [h]

end Sys2Proof.Machine
end

