-- ==== Sys2Proof/Laws/Gamma.lean ====
section
/-! SUPPORT. The curve generator is exact: the enclosures of Machine/Gamma.lean never disagree with the comparison of whole
powers (`roundsAbove_eq_exactAbove`), and an entry is the one n whose neighbours' comparisons it separates
(`gammaEntry_spec`). -/

namespace Sys2Proof.Machine

@[simp] theorem force_eq {α : Type} (n : Nat) (f : Nat → α) : force n f = f n := by
  cases n <;> rfl

@[simp] theorem forced_eq {α : Type} (a : Scaled) (f : Scaled → α) : a.forced f = f a := by
  simp [Scaled.forced]

/-- The number a scaled number stands for. -/
def Scaled.value (a : Scaled) : Nat := a.m * 2 ^ a.s

theorem value_mul (a b : Scaled) : (a.mul b).value = a.value * b.value := by
  simp only [Scaled.value, Scaled.mul, pow_add]
  ring

/-- The high bits of `n`, one bit further down. -/
theorem shiftRight_split (n k : Nat) : n >>> k = 2 * (n >>> (k + 1)) + n >>> k % 2 := by
  rw [Nat.shiftRight_succ]
  omega

/-- Squaring and multiplying keeps a lower bound a lower bound. -/
theorem square_le {m s b e r : Nat} (h : m * 2 ^ s ≤ b ^ e) : m * m * b ^ r * 2 ^ (s + s) ≤ b ^ (2 * e + r) := by
  calc m * m * b ^ r * 2 ^ (s + s) = (m * 2 ^ s) * (m * 2 ^ s) * b ^ r := by rw [pow_add]; ring
    _ ≤ b ^ e * b ^ e * b ^ r := Nat.mul_le_mul_right _ (Nat.mul_le_mul h h)
    _ = b ^ (2 * e + r) := by rw [pow_add, two_mul, pow_add]

/-- Squaring and multiplying keeps an upper bound an upper bound. -/
theorem le_square {m s b e r : Nat} (h : b ^ e ≤ m * 2 ^ s) : b ^ (2 * e + r) ≤ m * m * b ^ r * 2 ^ (s + s) := by
  calc b ^ (2 * e + r) = b ^ e * b ^ e * b ^ r := by rw [pow_add, two_mul, pow_add]
    _ ≤ (m * 2 ^ s) * (m * 2 ^ s) * b ^ r := Nat.mul_le_mul_right _ (Nat.mul_le_mul h h)
    _ = m * m * b ^ r * 2 ^ (s + s) := by rw [pow_add]; ring

theorem shiftRight_mul_le (w d : Nat) : (w >>> d) * 2 ^ d ≤ w := by
  rw [Nat.shiftRight_eq_div_pow]
  exact Nat.div_mul_le_self w (2 ^ d)

theorem le_roundUp_mul (w d : Nat) : w ≤ ((w + 1 * (1 <<< d - 1)) >>> d) * 2 ^ d := by
  have hd : 0 < 2 ^ d := Nat.two_pow_pos d
  rw [Nat.shiftRight_eq_div_pow, Nat.one_shiftLeft, one_mul]
  have h := Nat.div_add_mod (w + (2 ^ d - 1)) (2 ^ d)
  have hm := Nat.mod_lt (w + (2 ^ d - 1)) hd
  rw [mul_comm] at h
  omega

theorem powLoop_down_le (b n k m s : Nat) (h : m * 2 ^ s ≤ b ^ (n >>> k)) :
    (powLoop 0 b n k m s).value ≤ b ^ n := by
  induction k generalizing m s with
  | zero => simpa [powLoop, Scaled.value] using h
  | succ k ih =>
    simp only [powLoop, force_eq, Nat.zero_mul, Nat.add_zero]
    apply ih
    have hs := square_le (r := n >>> k % 2) h
    rw [← shiftRight_split] at hs
    generalize m * m * b ^ (n >>> k % 2) = w at hs ⊢
    calc (w >>> excess w) * 2 ^ (s + s + excess w) = (w >>> excess w) * 2 ^ excess w * 2 ^ (s + s) := by
          rw [pow_add (n := excess w)]; ring
      _ ≤ w * 2 ^ (s + s) := Nat.mul_le_mul_right _ (shiftRight_mul_le w _)
      _ ≤ _ := hs

theorem le_powLoop_up (b n k m s : Nat) (h : b ^ (n >>> k) ≤ m * 2 ^ s) :
    b ^ n ≤ (powLoop 1 b n k m s).value := by
  induction k generalizing m s with
  | zero => simpa [powLoop, Scaled.value] using h
  | succ k ih =>
    simp only [powLoop, force_eq]
    apply ih
    have hs := le_square (r := n >>> k % 2) h
    rw [← shiftRight_split] at hs
    generalize m * m * b ^ (n >>> k % 2) = w at hs ⊢
    calc b ^ (n >>> k) ≤ w * 2 ^ (s + s) := hs
      _ ≤ ((w + 1 * (1 <<< excess w - 1)) >>> excess w) * 2 ^ excess w * 2 ^ (s + s) :=
          Nat.mul_le_mul_right _ (le_roundUp_mul w _)
      _ = _ := by rw [pow_add (n := excess w)]; ring

theorem powDown_le {b k n : Nat} (h : n < 2 ^ k) : (powDown b k n).value ≤ b ^ n := by
  apply powLoop_down_le
  simp [Nat.shiftRight_eq_div_pow, Nat.div_eq_of_lt h]

theorem le_powUp {b k n : Nat} (h : n < 2 ^ k) : b ^ n ≤ (powUp b k n).value := by
  apply le_powLoop_up
  simp [Nat.shiftRight_eq_div_pow, Nat.div_eq_of_lt h]

/-- `less` says true only of a lesser number. -/
theorem value_lt_of_less {a b : Scaled} (h : a.less b = true) : a.value < b.value := by
  have split : ∀ {u v : Nat}, u ≤ v → 2 ^ v = 2 ^ (v - u) * 2 ^ u := fun hle => by
    rw [← pow_add, Nat.sub_add_cancel hle]
  unfold Scaled.less at h
  generalize window = width at h
  cases hs : Nat.ble a.s b.s
  · rw [hs] at h
    have hlt : b.s ≤ a.s := by
      by_contra hc
      have := Nat.ble_eq.mpr (Nat.le_of_lt (Nat.lt_of_not_le hc))
      rw [hs] at this
      cases this
    cases hd : Nat.ble (a.s - b.s) width <;> simp only [hd, cond_true, cond_false] at h
    · cases h
    · rw [Nat.blt_eq, Nat.shiftLeft_eq] at h
      rw [Scaled.value, Scaled.value, split hlt, ← mul_assoc]
      exact Nat.mul_lt_mul_of_pos_right h (Nat.two_pow_pos _)
  · rw [hs] at h
    have hle : a.s ≤ b.s := Nat.ble_eq.mp hs
    cases hd : Nat.ble (b.s - a.s) width <;> simp only [hd, cond_true, cond_false] at h
    · rw [Bool.and_eq_true, Nat.blt_eq, Nat.blt_eq] at h
      have hbig : width ≤ b.s - a.s := by
        by_contra hc
        have := Nat.ble_eq.mpr (Nat.le_of_lt (Nat.lt_of_not_le hc))
        rw [hd] at this
        cases this
      rw [Scaled.value, Scaled.value, split hle, ← mul_assoc]
      refine Nat.mul_lt_mul_of_pos_right (Nat.lt_of_lt_of_le h.1 ?_) (Nat.two_pow_pos _)
      exact le_trans (Nat.pow_le_pow_right (Nat.succ_pos 1) hbig) (Nat.le_mul_of_pos_left _ h.2)
    · rw [Nat.blt_eq, Nat.shiftLeft_eq] at h
      rw [Scaled.value, Scaled.value, split hle, ← mul_assoc]
      exact Nat.mul_lt_mul_of_pos_right h (Nat.two_pow_pos _)

theorem lt_of_productLess {a b c d : Scaled} (h : productLess a b c d = true) :
    a.value * b.value < c.value * d.value := by
  simp only [productLess, forced_eq] at h
  simpa [value_mul] using value_lt_of_less h

/-- The enclosures never disagree with the exact comparison. -/
theorem roundsAbove_eq_exactAbove {kp p kq q : Nat} (hp : p < 2 ^ kp) (hq : q < 2 ^ kq) (i j : Nat) :
    roundsAbove kp p kq q i j = exactAbove p q i j := by
  unfold roundsAbove
  cases h1 : productLess (powUp (2 * j + 1) kq q) (powUp 255 kp p) (powDown i kp p) (powDown 510 kq q)
  · cases h2 : productLess (powUp i kp p) (powUp 510 kq q) (powDown (2 * j + 1) kq q) (powDown 255 kp p)
    · rfl
    · have hlt : i ^ p * 510 ^ q < (2 * j + 1) ^ q * 255 ^ p :=
        calc i ^ p * 510 ^ q ≤ _ := Nat.mul_le_mul (le_powUp hp) (le_powUp hq)
          _ < _ := lt_of_productLess h2
          _ ≤ _ := Nat.mul_le_mul (powDown_le hq) (powDown_le hp)
      simp [exactAbove, Nat.not_lt.mpr (Nat.le_of_lt hlt), Nat.ne_of_gt hlt]
  · have hlt : (2 * j + 1) ^ q * 255 ^ p < i ^ p * 510 ^ q :=
      calc (2 * j + 1) ^ q * 255 ^ p ≤ _ := Nat.mul_le_mul (le_powUp hq) (le_powUp hp)
        _ < _ := lt_of_productLess h1
        _ ≤ _ := Nat.mul_le_mul (powDown_le hp) (powDown_le hq)
    simp [exactAbove, hlt]

/-- A value above j + 1/2 is above every lower half-integer. -/
theorem exactAbove_antitone {p q i j j' : Nat} (hq : q ≠ 0) (hj : j' ≤ j) (h : exactAbove p q i j = true) :
    exactAbove p q i j' = true := by
  rcases Nat.lt_or_eq_of_le hj with hlt | rfl
  · have hpow : (2 * j' + 1) ^ q * 255 ^ p < (2 * j + 1) ^ q * 255 ^ p :=
      Nat.mul_lt_mul_of_pos_right (Nat.pow_lt_pow_left (by omega) hq) (Nat.pow_pos (by omega))
    have hle : (2 * j + 1) ^ q * 255 ^ p ≤ i ^ p * 510 ^ q := by
      simp only [exactAbove, Bool.or_eq_true, Bool.and_eq_true, decide_eq_true_eq] at h
      rcases h with h | ⟨h, -⟩
      · exact Nat.le_of_lt h
      · exact Nat.le_of_eq h
    simp [exactAbove, Nat.lt_of_lt_of_le hpow hle]
  · exact h

/-- What the search returns: it stays in its range, stands above the last half-integer below it, and not above the next. -/
theorem searchEntry_spec {kp p kq q i : Nat} (hp : p < 2 ^ kp) (hq : q < 2 ^ kq) (k n : Nat)
    (h : n = 0 ∨ exactAbove p q i (n - 1) = true) :
    n ≤ searchEntry kp p kq q i k n ∧ searchEntry kp p kq q i k n < n + 2 ^ k ∧
    (searchEntry kp p kq q i k n = 0 ∨ exactAbove p q i (searchEntry kp p kq q i k n - 1) = true) ∧
    (searchEntry kp p kq q i k n + 1 < n + 2 ^ k → exactAbove p q i (searchEntry kp p kq q i k n) = false) := by
  induction k generalizing n with
  | zero => simpa [searchEntry] using h
  | succ k ih =>
    have h2 : 2 ^ (k + 1) = 2 ^ k + 2 ^ k := by rw [pow_succ]; omega
    have hpos : 0 < 2 ^ k := Nat.two_pow_pos k
    simp only [searchEntry, force_eq, roundsAbove_eq_exactAbove hp hq]
    cases hc : exactAbove p q i (n + 2 ^ k - 1) <;> simp only [cond_true, cond_false]
    · obtain ⟨h1, h3, h4, h5⟩ := ih n h
      refine ⟨h1, by omega, h4, fun hlt => ?_⟩
      by_cases hr : searchEntry kp p kq q i k n + 1 < n + 2 ^ k
      · exact h5 hr
      · have he : searchEntry kp p kq q i k n = n + 2 ^ k - 1 := by omega
        rw [he]
        exact hc
    · obtain ⟨h1, h3, h4, h5⟩ := ih (n + 2 ^ k) (.inr hc)
      exact ⟨by omega, by omega, h4, fun hlt => h5 (by omega)⟩

/-- An entry other than the two ends: at most 255, above the half-integer below it, not above the one over it. -/
theorem gammaEntry_spec {kp p kq q i : Nat} (hp : p < 2 ^ kp) (hq : q < 2 ^ kq) (h0 : i ≠ 0)
    (h255 : i ≠ 255) :
    gammaEntry kp p kq q i ≤ 255 ∧
    (gammaEntry kp p kq q i = 0 ∨ exactAbove p q i (gammaEntry kp p kq q i - 1) = true) ∧
    (gammaEntry kp p kq q i < 255 → exactAbove p q i (gammaEntry kp p kq q i) = false) := by
  have h := searchEntry_spec (i := i) hp hq 8 0 (.inl rfl)
  simp only [gammaEntry, h0, h255, if_false]
  exact ⟨by omega, h.2.2.1, fun hlt => h.2.2.2 (by omega)⟩

theorem gammaEntry_le (kp p kq q i : Nat) (hp : p < 2 ^ kp) (hq : q < 2 ^ kq) :
    gammaEntry kp p kq q i ≤ 255 := by
  by_cases h0 : i = 0
  · simp [gammaEntry, h0]
  · by_cases h255 : i = 255
    · simp [gammaEntry, h255]
    · exact (gammaEntry_spec hp hq h0 h255).1

/-- An entry is `n` once the comparison is true at n - 1 and false at n: two comparisons settle it. -/
theorem gammaEntry_eq {kp p kq q i n : Nat} (hp : p < 2 ^ kp) (hq : q < 2 ^ kq) (hq0 : q ≠ 0) (h0 : i ≠ 0)
    (h255 : i ≠ 255) (hn : n ≤ 255) (hbelow : n = 0 ∨ roundsAbove kp p kq q i (n - 1) = true)
    (habove : roundsAbove kp p kq q i n = false) : gammaEntry kp p kq q i = n := by
  rw [roundsAbove_eq_exactAbove hp hq] at hbelow habove
  obtain ⟨h1, h2, h3⟩ := gammaEntry_spec hp hq h0 h255
  generalize gammaEntry kp p kq q i = r at h1 h2 h3
  rcases Nat.lt_trichotomy r n with hlt | heq | hgt
  · have hr : exactAbove p q i r = true :=
      exactAbove_antitone hq0 (by omega) (hbelow.resolve_left (by omega))
    rw [h3 (by omega)] at hr
    cases hr
  · exact heq
  · have hr : exactAbove p q i n = true := exactAbove_antitone hq0 (by omega) (h2.resolve_left (by omega))
    rw [habove] at hr
    cases hr

theorem expDen_pos (x : BitVec 64) : 0 < expDen x :=
  Nat.div_pos (Nat.le_of_dvd (Nat.two_pow_pos _) (Nat.gcd_dvd_right _ _))
    (Nat.gcd_pos_of_pos_right _ (Nat.two_pow_pos _))

/-- The fraction in lowest terms stands for the binary64 value. -/
theorem expNum_mul (x : BitVec 64) :
    expNum x * 2 ^ (1075 - scale x) = significand x * 2 ^ (scale x - 1075) * expDen x := by
  unfold expNum expDen
  generalize significand x * 2 ^ (scale x - 1075) = p
  generalize 2 ^ (1075 - scale x) = q
  rw [Nat.div_mul_right_comm (Nat.gcd_dvd_left p q), ← Nat.mul_div_assoc p (Nat.gcd_dvd_right p q)]

/-- An entry of the generated curve. -/
theorem gammaGen_get (x : BitVec 64) (i : Nat) (h : i < 256) :
    (gammaGen x)[i] =
      BitVec.ofNat 8 (gammaEntry ((expNum x).log2 + 1) (expNum x) ((expDen x).log2 + 1) (expDen x) i) := by
  simp [gammaGen]

theorem gammaGen_toNat (x : BitVec 64) (i : Nat) (h : i < 256) :
    ((gammaGen x)[i]).toNat =
      gammaEntry ((expNum x).log2 + 1) (expNum x) ((expDen x).log2 + 1) (expDen x) i := by
  rw [gammaGen_get, BitVec.toNat_ofNat]
  refine Nat.mod_eq_of_lt (Nat.lt_succ_of_le ?_)
  exact gammaEntry_le _ _ _ _ _ Nat.lt_log2_self Nat.lt_log2_self

end Sys2Proof.Machine
end

