-- ==== Sys2Proof/Laws/Ops.lean ====
section
/-! SUPPORT. What each shared operation can do, said once: the bus write and the write-then-latch sequence by the answers of
the transport, the host port by what stands at it, the operand checks by what they accept. -/

namespace Sys2Proof.Machine

/-! The transport's answers (spec R44). -/

@[simp] theorem reply_of_nil {s : State} (h : s.transport = []) (k : Nat) : s.reply k = .ok := by
  simp [State.reply, h]

theorem reply_congr {s t : State} (h : t.transport = s.transport) (k : Nat) : t.reply k = s.reply k := by
  simp [State.reply, h]

@[simp] theorem reply_issue (c : BusCmd) (r : BusResult) (s : State) (k : Nat) :
    (issue c r s).reply k = s.reply (k + 1) := by
  cases h : s.transport <;> simp [State.reply, issue, h]

/-! One bus write (R44, R151, R184, R221). -/

theorem busWrite_ok {c : BusCmd} {k : State → State} {s : State} (h : s.reply 0 = .ok) :
    busWrite c k s = k (issue c .ok s) := by
  simp [busWrite, h]

theorem busWrite_fail {c : BusCmd} {k : State → State} {s : State} (h : s.reply 0 = .fail) :
    busWrite c k s = raise (.transport c.code) (issue c .fail s) := by
  simp [busWrite, h]

theorem busWrite_never {c : BusCmd} {k : State → State} {s : State} (h : s.reply 0 = .never) :
    busWrite c k s = issue c .never s := by
  simp [busWrite, h]

/-- Everything one bus write can do. -/
theorem busWrite_cases (c : BusCmd) (k : State → State) (s : State) :
    (s.reply 0 = .ok ∧ busWrite c k s = k (issue c .ok s)) ∨
    (s.reply 0 = .fail ∧ busWrite c k s = raise (.transport c.code) (issue c .fail s)) ∨
    (s.reply 0 = .never ∧ busWrite c k s = issue c .never s) := by
  cases h : s.reply 0
  · exact .inl ⟨rfl, busWrite_ok h⟩
  · exact .inr (.inl ⟨rfl, busWrite_fail h⟩)
  · exact .inr (.inr ⟨rfl, busWrite_never h⟩)

/-! The write-then-latch sequence (R151). -/

theorem writeThenLatch_ok {c : BusCmd} {s : State} (h0 : s.reply 0 = .ok) (h1 : s.reply 1 = .ok) :
    writeThenLatch c s = respondOk [] (issue .latch .ok (issue c .ok s)) := by
  rw [writeThenLatch, busWrite_ok h0, busWrite_ok (by simpa using h1)]

theorem writeThenLatch_fail {c : BusCmd} {s : State} (h0 : s.reply 0 = .fail) :
    writeThenLatch c s = raise (.transport c.code) (issue c .fail s) :=
  busWrite_fail h0

theorem writeThenLatch_never {c : BusCmd} {s : State} (h0 : s.reply 0 = .never) :
    writeThenLatch c s = issue c .never s :=
  busWrite_never h0

theorem writeThenLatch_latch_fail {c : BusCmd} {s : State} (h0 : s.reply 0 = .ok) (h1 : s.reply 1 = .fail) :
    writeThenLatch c s = raise (.transport 0x16) (issue .latch .fail (issue c .ok s)) := by
  rw [writeThenLatch, busWrite_ok h0, busWrite_fail (by simpa using h1)]
  rfl

theorem writeThenLatch_latch_never {c : BusCmd} {s : State} (h0 : s.reply 0 = .ok) (h1 : s.reply 1 = .never) :
    writeThenLatch c s = issue .latch .never (issue c .ok s) := by
  rw [writeThenLatch, busWrite_ok h0, busWrite_never (by simpa using h1)]

/-- Everything the write-then-latch sequence can do. -/
theorem writeThenLatch_cases (c : BusCmd) (s : State) :
    (s.reply 0 = .ok ∧ s.reply 1 = .ok ∧
      writeThenLatch c s = respondOk [] (issue .latch .ok (issue c .ok s))) ∨
    (s.reply 0 = .fail ∧ writeThenLatch c s = raise (.transport c.code) (issue c .fail s)) ∨
    (s.reply 0 = .never ∧ writeThenLatch c s = issue c .never s) ∨
    (s.reply 0 = .ok ∧ s.reply 1 = .fail ∧
      writeThenLatch c s = raise (.transport 0x16) (issue .latch .fail (issue c .ok s))) ∨
    (s.reply 0 = .ok ∧ s.reply 1 = .never ∧
      writeThenLatch c s = issue .latch .never (issue c .ok s)) := by
  cases h0 : s.reply 0
  · cases h1 : s.reply 1
    · exact .inl ⟨rfl, rfl, writeThenLatch_ok h0 h1⟩
    · exact .inr (.inr (.inr (.inl ⟨rfl, rfl, writeThenLatch_latch_fail h0 h1⟩)))
    · exact .inr (.inr (.inr (.inr ⟨rfl, rfl, writeThenLatch_latch_never h0 h1⟩)))
  · exact .inr (.inl ⟨rfl, writeThenLatch_fail h0⟩)
  · exact .inr (.inr (.inl ⟨rfl, writeThenLatch_never h0⟩))

/-! Operand checks (R18, R183). -/

theorem channelOf_some {ch : Byte} (h : ch.toNat < 18) : channelOf ch = some ⟨ch.toNat, h⟩ := by
  simp [channelOf, h]

theorem channelOf_none {ch : Byte} (h : 18 ≤ ch.toNat) : channelOf ch = none := by
  simp [channelOf, Nat.not_lt.mpr h]

theorem pwmVecOf_none {vals : List Byte} (h : vals.length ≠ 18) : pwmVecOf vals = none := by
  simp [pwmVecOf, h]

theorem pwmVecOf_some {vals : List Byte} (h : vals.length = 18) :
    ∃ v, pwmVecOf vals = some v ∧ v.toList = vals :=
  ⟨⟨vals.toArray, by simpa using h⟩, by simp [pwmVecOf, h], rfl⟩

theorem pwmVecOf_toList {vals : List Byte} {v : PwmVec} (h : pwmVecOf vals = some v) : v.toList = vals := by
  by_cases hl : vals.length = 18
  · obtain ⟨w, hw, hv⟩ := pwmVecOf_some hl
    rw [hw] at h
    cases h
    exact hv
  · simp [pwmVecOf_none hl] at h

theorem curveOf_none {ents : List Byte} (h : ents.length ≠ 256) : curveOf ents = none := by
  simp [curveOf, h]

theorem curveOf_some {ents : List Byte} (h : ents.length = 256) :
    ∃ v, curveOf ents = some v ∧ v.toList = ents :=
  ⟨⟨ents.toArray, by simpa using h⟩, by simp [curveOf, h], rfl⟩

/-! The LUT (R27, R127, R129). -/

@[simp] theorem lutRead_respond (st : Byte) (bs : List Byte) (s : State) : lutRead (respond st bs s) = lutRead s := rfl

theorem lutRead_congr {s t : State} (hs : t.shared = s.shared) (hv : t.ovrValid = s.ovrValid) (ho : t.ovr = s.ovr) :
    lutRead t = lutRead s := by
  funext c i
  simp [lutRead, hs, hv, ho]

theorem lutRead_clearOverrides (s : State) (c : Channel) (i : Byte) :
    lutRead (clearOverrides s) c i = entry s.shared i := by
  simp [lutRead]

theorem lutRead_lutWriteOvr (c d : Channel) (v : Curve) (i : Byte) (s : State) :
    lutRead (lutWriteOvr c v s) d i = if d = c then entry v i else lutRead s d i := by
  by_cases h : d = c
  · subst h
    simp [lutRead]
  · have h' : c.val ≠ d.val := fun e => h (Fin.ext e.symm)
    simp [lutRead, h, h']

@[simp] theorem gammaCorrect_get (s : State) (v : PwmVec) (k : Nat) (h : k < 18) :
    (gammaCorrect s v)[k] = lutRead s ⟨k, h⟩ v[k] := by
  simp [gammaCorrect]

/-! The host port (R21, R49, R221). -/

theorem fetch_request {s : State} {f : Frame} {rest : List Stimulus} (hw : s.waiting = none)
    (hi : s.inbox = .frame f :: rest) : fetch s = .request f { s with inbox := rest } := by
  simp [fetch, hw, hi]

theorem fetch_blockReset {s : State} {rest : List Stimulus} (hi : s.inbox = .blockReset :: rest) :
    fetch s = .blockReset { s with inbox := rest } := by
  simp [fetch, hi]

/-- Everything the host port can give. -/
theorem fetch_cases (s : State) :
    (s.inbox = [] ∧ s.waiting = none ∧ fetch s = .idle) ∨
    (s.waiting ≠ none ∧ fetch s = .stuck) ∨
    (∃ rest, s.inbox = .blockReset :: rest ∧ fetch s = .blockReset { s with inbox := rest }) ∨
    (∃ f rest, s.waiting = none ∧ s.inbox = .frame f :: rest ∧ fetch s = .request f { s with inbox := rest }) := by
  rcases hi : s.inbox with _ | ⟨x, rest⟩
  · cases hw : s.waiting <;> simp [fetch, hi, hw]
  · cases x with
    | frame f => cases hw : s.waiting <;> simp [fetch, hi, hw]
    | blockReset => simp [fetch, hi]

/-! Every meaning answers a next state. -/

/-- The three write-then-latch operations are one shared operation (R155 to R157). -/
theorem exec_writeThenLatch {s : State} {i : Instr} {c : BusCmd} (h : WritesThenLatches s i c) :
    exec i s = .next (writeThenLatch c s) := by
  rcases h with ⟨mask, rfl, rfl⟩ | ⟨vals, v, hv, ⟨rfl, rfl⟩ | ⟨rfl, rfl⟩⟩
  · rfl
  · simp only [exec, execOutput, hv, encPwm]
  · simp only [exec, execOutputRaw, hv, encPwm]

/-- `exec` never stops: an error of the spec is a response, and a hang is a state (R180, R221). -/
theorem exec_next (i : Instr) (s : State) : ∃ t, exec i s = .next t := by
  cases i <;>
    simp only [exec, execEnable, execDisable, execReset, execEnableLeds, execOutput, execOutputRaw, execSetChannelCurve,
      execResetToShared, execRegenDefault, execEncodeMask, execEncodePwm, execGenerateCurve, execCorrect] <;>
    repeat (first | exact ⟨_, rfl⟩ | split)

end Sys2Proof.Machine
end

