-- ==== Sys2Proof/Laws/PerInstr.lean ====
section
/-! SUPPORT. Statements made per instruction. FrameShape: the frame of a well-formed instruction starts with its opcode byte,
the opcode map reads that byte as its mnemonic (spec R78), and the length is the one its format gives (R71 to R76). -/

namespace Sys2Proof.Laws

/-- The opcode map and the opcode byte agree (R78). -/
@[simp] theorem ofCode_code (o : Op) : Op.ofCode o.code = some o := by
  cases o <;> rfl

namespace FrameShape

/-- See the head of this file. -/
def Statement (i : Instr) : Prop :=
  i.wellFormed = true →
    ∃ body, encode i = i.op.code :: body ∧ Op.ofCode i.op.code = some i.op ∧
      (encode i).length =
        match i with
        | .enable => 1
        | .disable => 1
        | .reset => 1
        | .enableLeds _ => 5
        | .encodeMask _ => 5
        | .output vals => 2 + vals.length
        | .outputRaw vals => 2 + vals.length
        | .encodePwm vals => 2 + vals.length
        | .setChannelCurve _ ents => 4 + ents.length
        | .resetToShared _ => 9
        | .regenDefault _ => 9
        | .generateCurve _ => 9
        | .correct _ _ => 3

theorem enable : Statement .enable := fun _ => ⟨_, rfl, rfl, rfl⟩

theorem disable : Statement .disable := fun _ => ⟨_, rfl, rfl, rfl⟩

theorem reset : Statement .reset := fun _ => ⟨_, rfl, rfl, rfl⟩

theorem enableLeds (mask : BitVec 32) : Statement (.enableLeds mask) := fun _ => ⟨_, rfl, rfl, rfl⟩

theorem output (vals : List Byte) : Statement (.output vals) :=
  fun _ => ⟨_, rfl, rfl, by simp [encode, encodeBody, encodeV]; omega⟩

theorem outputRaw (vals : List Byte) : Statement (.outputRaw vals) :=
  fun _ => ⟨_, rfl, rfl, by simp [encode, encodeBody, encodeV]; omega⟩

theorem setChannelCurve (ch : Byte) (ents : List Byte) : Statement (.setChannelCurve ch ents) :=
  fun _ => ⟨_, rfl, rfl, by simp [encode, encodeBody]; omega⟩

theorem resetToShared (exp : BitVec 64) : Statement (.resetToShared exp) := fun _ => ⟨_, rfl, rfl, rfl⟩

theorem regenDefault (exp : BitVec 64) : Statement (.regenDefault exp) := fun _ => ⟨_, rfl, rfl, rfl⟩

theorem encodeMask (mask : BitVec 32) : Statement (.encodeMask mask) := fun _ => ⟨_, rfl, rfl, rfl⟩

theorem encodePwm (vals : List Byte) : Statement (.encodePwm vals) :=
  fun _ => ⟨_, rfl, rfl, by simp [encode, encodeBody, encodeV]; omega⟩

theorem generateCurve (exp : BitVec 64) : Statement (.generateCurve exp) := fun _ => ⟨_, rfl, rfl, rfl⟩

theorem correct (ch raw : Byte) : Statement (.correct ch raw) := fun _ => ⟨_, rfl, rfl, rfl⟩

end FrameShape

end Sys2Proof.Laws
end

