-- ==== Sys2Proof/Laws/Step.lean ====
section
/-! SUPPORT. What one instruction and one step can add to the bus log, said once; claims about the log follow from it. -/

namespace Sys2Proof.Machine

/-- A value-changing write as the operations issue it (R155 to R157). -/
def IsValueCmd (k : BusCmd) : Prop := (∃ v, k = .setPwm v) ∨ (∃ mask, k = .enableChannels (encMask mask))

/-- The bus writes one operation can add to the log (spec R151 to R157): none; one, a value-changing write only if it did not
return ok; or a value-changing write that returned ok and its latch. -/
inductive Appended : List BusEvent → Prop where
  | none : Appended []
  | single (k : BusCmd) (r : BusResult)
      (h : (∃ b, k = .outputEnable b) ∨ k = .deviceReset ∨ (IsValueCmd k ∧ r ≠ .ok)) :
      Appended [⟨Config.devAddr, k.code, k.payload, r⟩]
  | pair (k : BusCmd) (r : BusResult) (h : IsValueCmd k) :
      Appended [⟨Config.devAddr, k.code, k.payload, .ok⟩, ⟨Config.devAddr, 0x16, [0xFF], r⟩]

theorem writeThenLatch_busLog (k : BusCmd) (s : State) (h : IsValueCmd k) :
    ∃ l, Appended l ∧ (writeThenLatch k s).busLog = s.busLog ++ l := by
  rcases writeThenLatch_cases k s with ⟨_, _, e⟩ | ⟨_, e⟩ | ⟨_, e⟩ | ⟨_, _, e⟩ | ⟨_, _, e⟩ <;> rw [e]
  · exact ⟨_, .pair k .ok h, by simp [BusCmd.code, BusCmd.payload]⟩
  · exact ⟨_, .single k .fail (.inr (.inr ⟨h, by simp⟩)), by simp⟩
  · exact ⟨_, .single k .never (.inr (.inr ⟨h, by simp⟩)), by simp⟩
  · exact ⟨_, .pair k .fail h, by simp [BusCmd.code, BusCmd.payload]⟩
  · exact ⟨_, .pair k .never h, by simp [BusCmd.code, BusCmd.payload]⟩

theorem busWrite_busLog (k : BusCmd) (f : State → State) (s : State) (hf : ∀ t, (f t).busLog = t.busLog)
    (h : (∃ b, k = .outputEnable b) ∨ k = .deviceReset) :
    ∃ l, Appended l ∧ (busWrite k f s).busLog = s.busLog ++ l := by
  have h' : ∀ r : BusResult, (∃ b, k = .outputEnable b) ∨ k = .deviceReset ∨ (IsValueCmd k ∧ r ≠ .ok) :=
    fun _ => h.imp_right .inl
  rcases busWrite_cases k f s with ⟨_, e⟩ | ⟨_, e⟩ | ⟨_, e⟩ <;> rw [e]
  · exact ⟨_, .single k .ok (h' _), by simp [hf]⟩
  · exact ⟨_, .single k .fail (h' _), by simp⟩
  · exact ⟨_, .single k .never (h' _), by simp⟩

theorem exec_busLog {i : Instr} {s t : State} (h : exec i s = .next t) :
    ∃ l, Appended l ∧ t.busLog = s.busLog ++ l := by
  cases i <;>
    simp only [exec, execEnable, execDisable, execReset, execEnableLeds, execOutput, execOutputRaw, execSetChannelCurve,
      execResetToShared, execRegenDefault, execEncodeMask, execEncodePwm, execGenerateCurve, execCorrect] at h
  case enable => cases h; exact busWrite_busLog _ _ _ (fun _ => rfl) (by simp)
  case disable => cases h; exact busWrite_busLog _ _ _ (fun _ => rfl) (by simp)
  case reset => cases h; exact busWrite_busLog _ _ _ (fun _ => rfl) (by simp)
  case enableLeds => cases h; exact writeThenLatch_busLog _ _ (.inr ⟨_, rfl⟩)
  case output =>
    split at h <;> cases h
    · exact ⟨[], .none, by simp⟩
    · exact writeThenLatch_busLog _ _ (.inl ⟨_, rfl⟩)
  case outputRaw =>
    split at h <;> cases h
    · exact ⟨[], .none, by simp⟩
    · exact writeThenLatch_busLog _ _ (.inl ⟨_, rfl⟩)
  all_goals
    (repeat' split at h) <;> cases h <;> exact ⟨[], .none, by simp⟩

theorem step_busLog {s t : State} (h : step s = .next t) : ∃ l, Appended l ∧ t.busLog = s.busLog ++ l := by
  rcases fetch_cases s with ⟨_, _, hf⟩ | ⟨_, hf⟩ | ⟨rest, _, hf⟩ | ⟨f, rest, _, _, hf⟩ <;> simp only [step, hf] at h
  · cases h
    exact ⟨[], .none, by simp⟩
  · cases h
  · cases h
    exact ⟨[], .none, by simp⟩
  · split at h
    · cases h
      exact ⟨[], .none, by simp⟩
    · obtain ⟨l, hl, e⟩ := exec_busLog h
      exact ⟨l, hl, e⟩

/-- The latch discipline of two logs is that of their concatenation. -/
theorem latchFrom_append {owed : Bool} {a b : List BusEvent} (ha : latchFrom owed a = true)
    (hb : latchDiscipline b = true) : latchFrom owed (a ++ b) = true := by
  induction a generalizing owed with
  | nil =>
    cases owed
    · exact hb
    · simp [latchFrom] at ha
  | cons e rest ih =>
    cases owed <;> simp only [latchFrom, List.cons_append, Bool.and_eq_true] at ha ⊢ <;> exact ⟨ha.1, ih ha.2⟩

end Sys2Proof.Machine
end

