-- ==== Sys2Proof/Tests/Slice0.lean ====
section
/-! SUPPORT. The model's own tests: ill-formed terms the check refuses, a written-out frame for every constructor, one-step
tests whose expected results are the tables V-D, V-E, V-G and V-C of 95_test_vectors.md or the examples of the rules, and for
every statement with hypotheses a witness that meets them. -/

open Sys2Proof Sys2Proof.Machine

namespace Sys2Proof.Tests

-- One theorem after the other: many kernel evaluations side by side need more address space than the check allows.
set_option Elab.async false

/-- A device with every bank told apart: staged values 1 and 3, live values 2 and 4. -/
def dev0 : Device :=
  ⟨false, Vector.replicate 18 0x01, Vector.replicate 18 0x02, Vector.replicate 3 3, Vector.replicate 3 4⟩

/-- A block after reset with that device, override stores of zeros, and the given answers of the transport. -/
def st (answers : List BusResult) : State :=
  { State.reset with dev := dev0, ovr := Vector.replicate 18 (Vector.replicate 256 0x00), transport := answers }

/-- The state `s` with frames delivered. -/
def given (s : State) (fs : List Frame) : State := { s with inbox := fs.map .frame }

/-- The outcome is a next state with a property. -/
def after (o : Host.Outcome State Fault Refusal) (p : State → Bool) : Bool :=
  match o with
  | .next t => p t
  | .fault _ => false
  | .refused _ => false

/-- The operation answered `r` after the bus writes `log`. -/
def answers (o : Host.Outcome State Fault Refusal) (r : Frame) (log : List BusEvent) : Bool :=
  after o fun t => t.responses == [r] && t.busLog == log

/-- One bus write to the device. -/
def wr (code : Byte) (payload : List Byte) (r : BusResult) : BusEvent := ⟨0x54, code, payload, r⟩

/-! Well-formedness: one ill-formed term for each check. -/

theorem test_wf_output : (Instr.output (List.replicate 256 0)).wellFormed = false := by
  rw [Instr.wellFormed, List.length_replicate]
  decide

theorem test_wf_outputRaw : (Instr.outputRaw (List.replicate 256 0)).wellFormed = false := by
  rw [Instr.wellFormed, List.length_replicate]
  decide

theorem test_wf_encodePwm : (Instr.encodePwm (List.replicate 256 0)).wellFormed = false := by
  rw [Instr.wellFormed, List.length_replicate]
  decide

theorem test_wf_setChannelCurve : (Instr.setChannelCurve 0 (List.replicate 65536 0)).wellFormed = false := by
  rw [Instr.wellFormed, List.length_replicate]
  decide

/-- The longest value lists a frame can carry, and a refused channel, are well-formed. -/
theorem test_wf_accepts : (Instr.output (List.replicate 255 0)).wellFormed = true ∧
    (Instr.setChannelCurve 0xFF (List.replicate 65535 0)).wellFormed = true ∧
    (Instr.correct 0xFF 0xFF).wellFormed = true := by
  rw [Instr.wellFormed, Instr.wellFormed, List.length_replicate, List.length_replicate]
  decide

/-! Decoding: a frame of each row, written out from R71 to R78. -/

theorem test_decode_enable : decode [0b00000001] = .ok .enable := by rfl

theorem test_decode_disable : decode [0b00000010] = .ok .disable := by rfl

theorem test_decode_reset : decode [0b00000011] = .ok .reset := by rfl

/-- R155: `ENABLE_LEDS 0x20041` is `04 41 00 02 00`. -/
theorem test_decode_enableLeds :
    decode [0b00000100, 0b01000001, 0b00000000, 0b00000010, 0b00000000] = .ok (.enableLeds 0x20041) := by rfl

theorem test_decode_output :
    decode [0b00000101, 0b00000011, 0b10000000, 0b00000001, 0b11111111] = .ok (.output [0x80, 0x01, 0xFF]) := by rfl

theorem test_decode_outputRaw : decode [0b00000110, 0b00000010, 0b00010000, 0b00100000] = .ok (.outputRaw [16, 32]) := by
  rfl

/-- LEN is 16 bits, its low byte first: 0x0002 entries. -/
theorem test_decode_setChannelCurve :
    decode [0b00000111, 0b00000101, 0b00000010, 0b00000000, 0b11111111, 0b11111110] =
      .ok (.setChannelCurve 5 [0xFF, 0xFE]) := by rfl

/-- R85: 1.4 is 0x3FF6666666666666. -/
theorem test_decode_resetToShared :
    decode [0b00001000, 0x66, 0x66, 0x66, 0x66, 0x66, 0x66, 0xF6, 0x3F] = .ok (.resetToShared 0x3FF6666666666666) := by
  rfl

/-- R131: `REGEN_DEFAULT 2.0`. -/
theorem test_decode_regenDefault :
    decode [0b00001001, 0, 0, 0, 0, 0, 0, 0, 0x40] = .ok (.regenDefault 0x4000000000000000) := by rfl

/-- Table V-E1. -/
theorem test_decode_encodeMask :
    decode [0b00001010, 0x78, 0x56, 0x34, 0x12] = .ok (.encodeMask 0x12345678) := by rfl

theorem test_decode_encodePwm : decode [0b00001011, 0b00000001, 0b00010001] = .ok (.encodePwm [0x11]) := by rfl

/-- R126: `GENERATE_CURVE 2.0` is `0C 00 00 00 00 00 00 00 40`. -/
theorem test_decode_generateCurve :
    decode [0b00001100, 0, 0, 0, 0, 0, 0, 0, 0x40] = .ok (.generateCurve 0x4000000000000000) := by rfl

/-- R128: `CORRECT 0, 128` is `0D 00 80`. -/
theorem test_decode_correct : decode [0b00001101, 0b00000000, 0b10000000] = .ok (.correct 0 128) := by rfl

/-- A table word: byte 0 of the frame in bits 7:0; a row whose word holds only the opcode gets its operand bytes zero. -/
theorem test_decodeTableWord :
    decodeTableWord 40 0x000200410A = some (.encodeMask 0x20041) ∧ decodeTableWord 8 0x0D = some (.correct 0 0) ∧
    decodeTableWord 8 0x05 = some (.output []) ∧ decodeTableWord 8 0x0E = none := by decide

/-- Table V-D, the rows the decoder refuses. -/
theorem test_decode_refusals :
    answers (step (given (st []) [[]])) [0x01, 0x01] [] = true ∧
    answers (step (given (st []) [[0x00]])) [0x03, 0x00] [] = true ∧
    answers (step (given (st []) [[0x0E]])) [0x03, 0x0E] [] = true ∧
    answers (step (given (st []) [[0xFF, 0x01, 0x02]])) [0x03, 0xFF] [] = true ∧
    answers (step (given (st []) [[0x01, 0x00]])) [0x01, 0x01] [] = true ∧
    answers (step (given (st []) [[0x04, 0xFF, 0xFF, 0x03]])) [0x01, 0x01] [] = true ∧
    answers (step (given (st []) [0x05 :: 0x12 :: List.replicate 17 0])) [0x01, 0x01] [] = true ∧
    answers (step (given (st []) [0x07 :: 0x12 :: 0x00 :: 0x01 :: List.replicate 255 0])) [0x01, 0x01] [] = true ∧
    answers (step (given (st []) [[0x0D, 0x00]])) [0x01, 0x01] [] = true ∧
    answers (step (given (st []) [[0x0C, 0, 0, 0, 0, 0, 0, 0xF0]])) [0x01, 0x01] [] = true := by decide +kernel

/-! One step of each operation. -/

/-- Table V-C, ENABLE. -/
theorem test_enable_ok :
    after (step (given (st []) [[0x01]])) (fun t =>
      t.responses == [[0x00]] && t.busLog == [wr 0x00 [0x01] .ok] && t.enabledOut && t.dev == { dev0 with oe := true }) =
      true := by decide +kernel

/-- Table V-C, ENABLE with a failed write: the flag stays. -/
theorem test_enable_fail :
    after (step (given (st [.fail]) [[0x01]])) (fun t =>
      t.responses == [[0x02, 0x00]] && t.busLog == [wr 0x00 [0x01] .fail] && !t.enabledOut) = true := by decide +kernel

/-- Table V-C, DISABLE. -/
theorem test_disable_ok :
    after (step (given { st [] with enabled := true } [[0x02]])) (fun t =>
      t.responses == [[0x00]] && t.busLog == [wr 0x00 [0x00] .ok] && !t.enabledOut && t.dev == dev0) = true := by
  decide +kernel

/-- Table V-C, DISABLE with a failed write: the flag stays. -/
theorem test_disable_fail :
    after (step (given { st [.fail] with enabled := true } [[0x02]])) (fun t =>
      t.responses == [[0x02, 0x00]] && t.enabledOut) = true := by decide +kernel

/-- Table V-C, RESET. -/
theorem test_reset_ok :
    after (step (given { st [] with enabled := true } [[0x03]])) (fun t =>
      t.responses == [[0x00]] && t.busLog == [wr 0x17 [0xFF] .ok] && t.enabledOut) = true := by decide +kernel

/-- Table V-C, RESET with a failed write. -/
theorem test_reset_fail : answers (step (given (st [.fail]) [[0x03]])) [0x02, 0x17] [wr 0x17 [0xFF] .fail] = true := by
  decide +kernel

/-- R155: the example, and what the latch commits on the device (R54). -/
theorem test_enableLeds_ok :
    after (step (given (st []) [[0x04, 0x41, 0x00, 0x02, 0x00]])) (fun t =>
      t.responses == [[0x00]] && t.busLog == [wr 0x13 [0x01, 0x01, 0x20] .ok, wr 0x16 [0xFF] .ok] &&
      t.dev.enLive == #v[0x01, 0x01, 0x20] && t.dev.pwmLive == Vector.replicate 18 0x01) = true := by decide +kernel

/-- Table V-C, ENABLE_LEDS with each write failing: no latch after a failed register write. -/
theorem test_enableLeds_fail :
    answers (step (given (st [.fail]) [[0x04, 0xFF, 0xFF, 0x03, 0x00]])) [0x02, 0x13] [wr 0x13 [0x3F, 0x3F, 0x3F] .fail] =
      true ∧
    answers (step (given (st [.ok, .fail]) [[0x04, 0xFF, 0xFF, 0x03, 0x00]])) [0x02, 0x16]
      [wr 0x13 [0x3F, 0x3F, 0x3F] .ok, wr 0x16 [0xFF] .fail] = true := by decide +kernel

/-- Program P1 of 95_test_vectors.md: its OUTPUT frame. -/
theorem test_output_ok :
    answers (step (given (st []) [[0x05, 0x12, 0x00, 0x10, 0x20, 0x30, 0x40, 0x50, 0x60, 0x70, 0x80, 0x90, 0xA0, 0xB0,
        0xC0, 0xD0, 0xE0, 0xF0, 0xFF, 0x64]])) [0x00]
      [wr 0x01 [0x00, 0x05, 0x0E, 0x19, 0x25, 0x32, 0x41, 0x51, 0x61, 0x73, 0x85, 0x98, 0xAB, 0xC0, 0xD5, 0xEA, 0xFF, 0x45] .ok,
       wr 0x16 [0xFF] .ok] = true := by decide +kernel

/-- Worked example W7, and table V-C's failed OUTPUT. -/
theorem test_output_refused :
    answers (step (given (st []) [0x05 :: 0x11 :: List.replicate 17 0])) [0x01, 0x02] [] = true ∧
    answers (step (given (st [.fail]) [0x05 :: 0x12 :: List.replicate 18 0])) [0x02, 0x01]
      [wr 0x01 (List.replicate 18 0) .fail] = true := by decide +kernel

/-- Table V-C, OUTPUT_RAW 0..17; channel 17's byte is the last. -/
theorem test_outputRaw_ok :
    after (step (given (st []) [[0x06, 0x12, 0, 1, 2, 3, 4, 5, 6, 7, 8, 9, 10, 11, 12, 13, 14, 15, 16, 17]])) (fun t =>
      t.responses == [[0x00]] &&
      t.busLog == [wr 0x01 [0, 1, 2, 3, 4, 5, 6, 7, 8, 9, 10, 11, 12, 13, 14, 15, 16, 17] .ok, wr 0x16 [0xFF] .ok] &&
      t.dev.pwmLive[17] == 17 && t.dev.enLive == dev0.enStage) = true := by decide +kernel

/-- Table V-C, OUTPUT_RAW with a failed latch. -/
theorem test_outputRaw_latch_fail :
    after (step (given (st [.ok, .fail]) [0x06 :: 0x12 :: List.replicate 18 9])) (fun t =>
      t.responses == [[0x02, 0x16]] &&
      t.busLog == [wr 0x01 (List.replicate 18 9) .ok, wr 0x16 [0xFF] .fail]) = true := by decide +kernel

/-- Table V-G2: SET_CHANNEL_CURVE 3 with i XOR 0xFF; channel 4 keeps the shared curve. -/
theorem test_setChannelCurve_ok :
    after (step (given (st []) [0x07 :: 0x03 :: 0x00 :: 0x01 :: (List.range 256).map fun i => BitVec.ofNat 8 i ^^^ 0xFF]))
      (fun t => t.responses == [[0x00]] && lutRead t 3 0 == 0xFF && lutRead t 3 128 == 0x7F && lutRead t 4 128 == 0x61) =
      true := by decide +kernel

/-- Table V-D: the count is checked before the channel. -/
theorem test_setChannelCurve_refused :
    answers (step (given (st []) [0x07 :: 0x12 :: 0xFF :: 0x00 :: List.replicate 255 0])) [0x01, 0x02] [] = true ∧
    answers (step (given (st []) [0x07 :: 0x12 :: 0x00 :: 0x01 :: List.replicate 256 0])) [0x01, 0x03] [] = true := by
  decide +kernel

/-- Table V-D: the zeros of both signs are refused. -/
theorem test_resetToShared_refused :
    answers (step (given (st []) [[0x08, 0, 0, 0, 0, 0, 0, 0, 0x00]])) [0x01, 0x04] [] = true ∧
    answers (step (given (st []) [[0x08, 0, 0, 0, 0, 0, 0, 0, 0x80]])) [0x01, 0x04] [] = true := by decide +kernel

/-- R129: every override is discarded. -/
theorem test_resetToShared_ok :
    after (step (given { st [] with ovrValid := Vector.replicate 18 true } [[0x08, 0, 0, 0, 0, 0, 0, 0, 0x40]])) (fun t =>
      t.responses == [[0x00]] && t.ovrValid == Vector.replicate 18 false) = true := by decide +kernel

/-- Table V-D: -1.0 is refused. -/
theorem test_regenDefault_refused :
    answers (step (given (st []) [[0x09, 0, 0, 0, 0, 0, 0, 0xF0, 0xBF]])) [0x01, 0x04] [] = true := by decide +kernel

/-- R131: every override is kept. -/
theorem test_regenDefault_ok :
    after (step (given { st [] with ovrValid := Vector.replicate 18 true } [[0x09, 0, 0, 0, 0, 0, 0, 0, 0x40]])) (fun t =>
      t.responses == [[0x00]] && t.ovrValid == Vector.replicate 18 true) = true := by decide +kernel

/-- Table V-E1: the instance of W1, and bit 18 dropped. -/
theorem test_encodeMask :
    answers (step (given (st []) [[0x0A, 0x78, 0x56, 0x34, 0x12]])) [0x00, 0x38, 0x19, 0x05] [] = true ∧
    answers (step (given (st []) [[0x0A, 0x00, 0x00, 0x04, 0x00]])) [0x00, 0x00, 0x00, 0x00] [] = true := by decide +kernel

/-- Table V-E2. -/
theorem test_encodePwm :
    answers (step (given (st []) [[0x0B, 0x12, 0, 1, 2, 3, 4, 5, 6, 7, 8, 9, 10, 11, 12, 13, 14, 15, 16, 17]]))
      [0x00, 0, 1, 2, 3, 4, 5, 6, 7, 8, 9, 10, 11, 12, 13, 14, 15, 16, 17] [] = true ∧
    answers (step (given (st []) [0x0B :: 0x11 :: List.replicate 17 0])) [0x01, 0x02] [] = true := by decide +kernel

/-- Table V-D: +inf and NaN are refused. -/
theorem test_generateCurve_refused :
    answers (step (given (st []) [[0x0C, 0, 0, 0, 0, 0, 0, 0xF0, 0x7F]])) [0x01, 0x04] [] = true ∧
    answers (step (given (st []) [[0x0C, 0, 0, 0, 0, 0, 0, 0xF8, 0x7F]])) [0x01, 0x04] [] = true := by decide +kernel

/-- R128's example and table V-G2; an override wins, and CH = 18 and 255 are refused. -/
theorem test_correct :
    answers (step (given (st []) [[0x0D, 0x00, 0x80]])) [0x00, 0x61] [] = true ∧
    answers (step (given (st []) [[0x0D, 0x11, 0xFF]])) [0x00, 0xFF] [] = true ∧
    answers (step (given { st [] with ovrValid := Vector.replicate 18 true } [[0x0D, 0x11, 0xFF]])) [0x00, 0x00] [] = true ∧
    answers (step (given (st []) [[0x0D, 0x12, 0x00]])) [0x01, 0x03] [] = true ∧
    answers (step (given (st []) [[0x0D, 0xFF, 0x00]])) [0x01, 0x03] [] = true := by decide +kernel

/-! The curve generator: table V-G1. -/

/-- e = 2.0 (0x4000000000000000). -/
theorem test_gamma_2_0 :
    ((gammaGen 0x4000000000000000)[128]).toNat = 64 ∧ ((gammaGen 0x4000000000000000)[16]).toNat = 1 ∧
    ((gammaGen 0x4000000000000000)[254]).toNat = 253 := by
  simp only [gammaGen_toNat]
  decide +kernel

/-- e = 1.4: the entry nearest a tie, 57.49892. -/
theorem test_gamma_1_4 : ((gammaGen 0x3FF6666666666666)[88]).toNat = 57 := by
  rw [gammaGen_toNat]
  decide +kernel

/-- e = 0.5 (0x3FE0000000000000) and e = 2.2 (0x400199999999999A). -/
theorem test_gamma_others :
    ((gammaGen 0x3FE0000000000000)[16]).toNat = 64 ∧ ((gammaGen 0x3FE0000000000000)[192]).toNat = 221 ∧
    ((gammaGen 0x400199999999999A)[88]).toNat = 25 := by
  simp only [gammaGen_toNat]
  decide +kernel

/-- The smallest subnormal gives 255 from entry 1 on. -/
theorem test_gamma_subnormal : ((gammaGen 0x0000000000000001)[1]).toNat = 255 := by
  rw [gammaGen_toNat]
  decide +kernel

/-- e = 1e300 (0x7E37E43C8800759C) gives 0 up to entry 254. -/
theorem test_gamma_huge : ((gammaGen 0x7E37E43C8800759C)[254]).toNat = 0 := by
  rw [gammaGen_toNat]
  decide +kernel

/-! The step and the ports. -/

/-- R221: after a write that never returns there is no response, and then no further step; the block reset acts. -/
theorem test_hang :
    after (step (given (st [.never]) [[0x01], [0x02]])) (fun t =>
      t.responses == [] && t.busLog == [wr 0x00 [0x01] .never] && t.waiting == some (.outputEnable true) &&
      (match step t with
       | .fault r => r == .busWriteNeverReturned
       | .next _ => false
       | .refused _ => false) &&
      after (step { t with inbox := [.blockReset] }) (fun u => u.waiting == none && !u.enabledOut)) = true := by
  decide +kernel

/-- A table word delivered at reset is executed by the next step. -/
theorem test_withFetchWord :
    answers (step (State.reset.withFetchWord 24 0x80000D)) [0x00, 0x61] [] = true := by decide +kernel

/-- R56: channel 6 is bit 0 of group 1; in shutdown it is off. -/
theorem test_outputOf :
    outputOf { dev0 with oe := true, enLive := #v[0, 1, 0] } 6 = some 2 ∧
    outputOf { dev0 with oe := true, enLive := #v[0, 1, 0] } 7 = none ∧
    outputOf { dev0 with enLive := #v[0, 1, 0] } 6 = none := by decide +kernel

/-! The assembler (R85, R86). -/

/-- Frames of R104, 95_test_vectors.md programs P1, P2 and P4, and a comment. -/
theorem test_assemble_integers :
    Asm.assemble "ENABLE_LEDS 0x20041 ; W6" = some [[0x04, 0x41, 0x00, 0x02, 0x00]] ∧
    Asm.assemble "CORRECT 17, 100" = some [[0x0D, 0x11, 0x64]] ∧
    Asm.assemble "OUTPUT 128 x 18" = some [0x05 :: 0x12 :: List.replicate 18 0x80] ∧
    Asm.assemble "SET_CHANNEL_CURVE 18, 0 x 256" = some [0x07 :: 0x12 :: 0x00 :: 0x01 :: List.replicate 256 0] ∧
    Asm.assemble "OUTPUT 256" = none := by decide +kernel

/-- Exponent literals with the bytes of R85, table V-G1 and W4. -/
theorem test_assemble_exponents :
    Asm.assemble "RESET_TO_SHARED 1.4" = some [[0x08, 0x66, 0x66, 0x66, 0x66, 0x66, 0x66, 0xF6, 0x3F]] ∧
    Asm.assemble "GENERATE_CURVE 1e300" = some [[0x0C, 0x9C, 0x75, 0x00, 0x88, 0x3C, 0xE4, 0x37, 0x7E]] ∧
    Asm.assemble "GENERATE_CURVE 5e-324" = some [[0x0C, 1, 0, 0, 0, 0, 0, 0, 0]] ∧
    Asm.assemble "REGEN_DEFAULT b64:0x3FF6666666666667" = some [[0x09, 0x67, 0x66, 0x66, 0x66, 0x66, 0x66, 0xF6, 0x3F]] ∧
    Asm.assemble "REGEN_DEFAULT 2.2" = some [[0x09, 0x9A, 0x99, 0x99, 0x99, 0x99, 0x99, 0x01, 0x40]] := by decide +kernel

/-- The pseudo-instructions of R86. -/
theorem test_assemble_pseudo :
    Asm.assemble "SHUTDOWN" = some [[0x03], [0x02]] ∧ Asm.assemble "RECOVER" = some [[0x03], [0x01]] ∧
    Asm.assemble "ALL_ON" = some [[0x04, 0xFF, 0xFF, 0x03, 0x00]] ∧ Asm.assemble "ALL_OFF" = some [[0x04, 0, 0, 0, 0]] ∧
    Asm.assemble "BLANK" = some [0x06 :: 0x12 :: List.replicate 18 0] := by decide +kernel

/-! Witnesses: for each statement with hypotheses, a concrete input that meets them, one per clause. -/

/-- Eighteen, seventeen and 256 bytes. -/
def v18 : List Byte := List.replicate 18 0x07

/-- One byte short of a vector. -/
def v17 : List Byte := List.replicate 17 0x07

/-- The entries of a curve. -/
def v256 : List Byte := List.replicate 256 0x07

/-- A block with channel 17 overridden and channel 0 not. -/
def stOvr : State := { st [] with ovrValid := (Vector.replicate 18 false).set 17 true }

theorem witness_DecodeEncodeRoundTrip : (Instr.setChannelCurve 0xFF v256).wellFormed = true := by decide +kernel

theorem witness_EncodeDecodeRoundTrip : decode [0x0B, 0x01, 0xFF] = .ok (.encodePwm [0xFF]) := by rfl

theorem witness_OperandsAreAssembledLittleEndian :
    (List.replicate 255 (0 : Byte)).length = (0xFF : Byte).toNat ∧ ([] : List Byte).length = (0x00 : Byte).toNat ∧
    v256.length = (0x00 : Byte).toNat + 2 ^ 8 * (0x01 : Byte).toNat := by decide +kernel

/-- The opcodes at the edges of the map (R79), and frames that fit and do not fit their format. -/
theorem witness_DecodeFollowsTheFormats :
    ((0x00 : Byte) = 0x00 ∨ 0x0E ≤ (0x00 : Byte).toNat) ∧ ((0x0E : Byte) = 0x00 ∨ 0x0E ≤ (0x0E : Byte).toNat) ∧
    ¬((0x01 : Byte) = 0x00 ∨ 0x0E ≤ (0x01 : Byte).toNat) ∧ ¬((0x0D : Byte) = 0x00 ∨ 0x0E ≤ (0x0D : Byte).toNat) ∧
    (∃ i, decode [0x0D, 0x00, 0x00] = .ok i) ∧ decode [0x0D, 0x00] = .error (.invalidArgument .badLength) :=
  ⟨by decide, by decide, by decide, by decide, ⟨_, rfl⟩, rfl⟩

theorem witness_StepRunsTheDecodedRequest :
    (given (st []) [[0x01]]).Ready [0x01] [] ∧ decode [0x01] = .ok .enable ∧ decodeTableWord 8 0x01 = some .enable :=
  ⟨⟨rfl, rfl⟩, rfl, by decide⟩

theorem witness_IllegalOpcodeIsAnsweredAndChangesNothing :
    (given (st []) [[0x00]]).Ready [0x00] [] ∧ (given (st []) [[0x0E, 0x01]]).Ready [0x0E, 0x01] [] ∧
    ((0x00 : Byte) = 0x00 ∨ 0x0E ≤ (0x00 : Byte).toNat) ∧ ((0x0E : Byte) = 0x00 ∨ 0x0E ≤ (0x0E : Byte).toNat) :=
  ⟨⟨rfl, rfl⟩, ⟨rfl, rfl⟩, by decide, by decide⟩

/-- An empty frame, and a frame of the last legal opcode that is one byte short. -/
theorem witness_MalformedFramesAreAnsweredAndChangeNothing :
    ((given (st []) [[]]).Ready [] [] ∧ (∀ i, decode [] ≠ .ok i) ∧
      (∀ op body, ([] : Frame) = op :: body → op ≠ 0x00 ∧ op.toNat < 0x0E)) ∧
    ((given (st []) [[0x0D, 0x00]]).Ready [0x0D, 0x00] [] ∧ (∀ i, decode [0x0D, 0x00] ≠ .ok i) ∧
      (∀ op body, ([0x0D, 0x00] : Frame) = op :: body → op ≠ 0x00 ∧ op.toNat < 0x0E)) := by
  refine ⟨⟨⟨rfl, rfl⟩, ?_, ?_⟩, ⟨rfl, rfl⟩, ?_, ?_⟩
  · intro i h
    cases h
  · intro op body h
    cases h
  · intro i h
    cases h
  · intro op body h
    cases h
    decide

theorem witness_OnlyAHangStops : (st []).waiting = none := by rfl

/-- A request that is answered, and one whose write never returns. -/
theorem witness_OneResponsePerRequest :
    (∃ t, (given (st []) [[0x01]]).Ready [0x01] [] ∧ step (given (st []) [[0x01]]) = .next t ∧ t.waiting = none) ∧
    (∃ t, (given (st [.never]) [[0x01]]).Ready [0x01] [] ∧ step (given (st [.never]) [[0x01]]) = .next t ∧
      t.waiting ≠ none) :=
  ⟨⟨_, ⟨rfl, rfl⟩, rfl, rfl⟩, ⟨_, ⟨rfl, rfl⟩, rfl, by simp [busWrite, given, st, State.reply, issue]⟩⟩

theorem witness_HungBlockTakesNoFurtherStep :
    ({ given (st []) [[0x01]] with waiting := some .latch } : State).waiting ≠ none ∧
    (∀ rest, ({ given (st []) [[0x01]] with waiting := some .latch } : State).inbox ≠ .blockReset :: rest) := by
  refine ⟨by simp, fun rest => by simp [given]⟩

/-- The three write-then-latch operations, in any state. -/
theorem writeThenLatchOperations (s : State) :
    (∃ c, WritesThenLatches s (.enableLeds 1) c) ∧ (∃ c, WritesThenLatches s (.output v18) c) ∧
    (∃ c, WritesThenLatches s (.outputRaw v18) c) := by
  obtain ⟨v, h, -⟩ := pwmVecOf_some (vals := v18) (by decide)
  exact ⟨⟨_, .inl ⟨1, rfl, rfl⟩⟩, ⟨_, .inr ⟨v18, v, h, .inl ⟨rfl, rfl⟩⟩⟩, ⟨_, .inr ⟨v18, v, h, .inr ⟨rfl, rfl⟩⟩⟩⟩

/-- The six operations of the first clause, and the three of the second. -/
theorem witness_UnreturnedWriteGivesNoResponse :
    ((st [.never]).reply 0 = .never ∧ (Instr.enable = .enable ∧ BusCmd.outputEnable true = .outputEnable true) ∧
      (Instr.disable = .disable ∧ BusCmd.outputEnable false = .outputEnable false) ∧
      (Instr.reset = .reset ∧ BusCmd.deviceReset = .deviceReset) ∧
      (∃ c, WritesThenLatches (st [.never]) (.enableLeds 1) c) ∧ (∃ c, WritesThenLatches (st [.never]) (.output v18) c) ∧
      (∃ c, WritesThenLatches (st [.never]) (.outputRaw v18) c)) ∧
    ((st [.ok, .never]).reply 0 = .ok ∧ (st [.ok, .never]).reply 1 = .never ∧
      (∃ c, WritesThenLatches (st [.ok, .never]) (.enableLeds 1) c) ∧
      (∃ c, WritesThenLatches (st [.ok, .never]) (.output v18) c) ∧
      (∃ c, WritesThenLatches (st [.ok, .never]) (.outputRaw v18) c)) :=
  ⟨⟨rfl, ⟨rfl, rfl⟩, ⟨rfl, rfl⟩, ⟨rfl, rfl⟩, writeThenLatchOperations _⟩, rfl, rfl, writeThenLatchOperations _⟩

/-- Masks that differ in bit 18 only; the bits of each clause at the edges of their range. -/
theorem witness_MaskBitsGoToTheirGroup :
    ((∀ k, k < 18 → (0x40000 : BitVec 32).getLsbD k = (0x0 : BitVec 32).getLsbD k)) ∧ (5 < 6) ∧ (6 ≤ 6) := by decide

theorem witness_MaskEncoderRoundTrip :
    (0x3FFFF : BitVec 32).toNat ≤ 0x3FFFF ∧ encMask 0x3FFFF = encMask (0x3FFFF : BitVec 32) := by decide

theorem witness_EncodeMaskAnswersTheGroupBytes : ([0x00] : Frame).length ≠ 4 := by decide

theorem witness_EncodePwmAnswersTheVectorUnchanged : v18.length = 18 ∧ v17.length ≠ 18 := by decide

/-- The largest finite exponent and the smallest are valid; the zeros, a negative number, infinity and a NaN are not. -/
theorem witness_OnlyFinitePositiveExponentsAreValid :
    validExponent 0x7FEFFFFFFFFFFFFF = true ∧ validExponent 0x0000000000000001 = true ∧
    validExponent 0x0000000000000000 = false ∧ validExponent 0x8000000000000000 = false ∧
    validExponent 0xBFF0000000000000 = false ∧ validExponent 0x7FF0000000000000 = false ∧
    validExponent 0x7FF8000000000000 = false := by decide

/-- A subnormal and a normal exponent. -/
theorem witness_GeneratedCurveIsTheRoundedPower :
    (validExponent 0x0000000000000001 = true ∧ (0x0000000000000001 : BitVec 64).toNat / 2 ^ 52 % 2 ^ 11 = 0) ∧
    (validExponent 0x3FF6666666666666 = true ∧ (0x3FF6666666666666 : BitVec 64).toNat / 2 ^ 52 % 2 ^ 11 ≠ 0) := by decide

theorem witness_GeneratedCurveHasItsNamedProperties :
    validExponent 0x3FF6666666666666 = true ∧ (0 : Fin 256) ≤ (255 : Fin 256) := by decide

theorem witness_GenerateCurveAnswersTheCurve : validExponent 0x4000000000000000 = true := by decide

/-- A whole curve of channel 5 is written. -/
theorem setsChannelFive : ∃ v, exec (.setChannelCurve 0x05 v256) (st []) = .next (respondOk [] (lutWriteOvr 5 v (st []))) := by
  obtain ⟨v, hv, -⟩ := curveOf_some (ents := v256) List.length_replicate
  exact ⟨v, by rw [exec, execSetChannelCurve, hv, channelOf_some (by decide)]; rfl⟩

/-- The last channel, a wrong count, and the first bad channel. -/
theorem witness_SetChannelCurveOverridesOneChannel :
    ((0x11 : Byte).toNat < 18 ∧ v256.length = 256) ∧ (∃ t, exec (.setChannelCurve 0x05 v256) (st []) = .next t) ∧
    (v17.length ≠ 256) ∧ (18 ≤ (0x12 : Byte).toNat ∧ v256.length = 256) :=
  ⟨⟨by decide, List.length_replicate⟩, setsChannelFive.elim fun _ h => ⟨_, h⟩, by decide, by decide,
    List.length_replicate⟩

/-- The last channel overridden, the first not, and the first bad channel. -/
theorem witness_CorrectReadsTheEffectiveCurve :
    ((0x11 : Byte).toNat < 18 ∧ stOvr.ovrValid[17] = true) ∧ ((0x00 : Byte).toNat < 18 ∧ stOvr.ovrValid[0] = false) ∧
    18 ≤ (0x12 : Byte).toNat := by decide

theorem witness_ResetToSharedDiscardsEveryOverride : validExponent 0x3FF6666666666666 = true := by decide

theorem witness_RegenDefaultKeepsEveryOverride :
    validExponent 0x4000000000000000 = true ∧ stOvr.ovrValid[(17 : Fin 18)] = true ∧
    stOvr.ovrValid[(0 : Fin 18)] = false := by decide

/-- A mark that is set and a mark that is cleared. -/
theorem witness_OverrideMarksChangeOnlyByTheirOperations :
    (∃ t, exec (.setChannelCurve 0x05 v256) (st []) = .next t ∧ t.ovrValid[(5 : Fin 18)] ≠ (st []).ovrValid[(5 : Fin 18)]) ∧
    (∃ t, exec (.resetToShared 0x4000000000000000) stOvr = .next t ∧
      t.ovrValid[(17 : Fin 18)] ≠ stOvr.ovrValid[(17 : Fin 18)]) :=
  ⟨setsChannelFive.elim fun _ h => ⟨_, h, by simp [st]⟩, ⟨_, rfl, by decide +kernel⟩⟩

/-- Two states that differ in the store of channel 0, one that steps and one that is stuck. -/
theorem witness_UnreadOverrideStoresAreNeverSeen :
    SameButUnread stOvr { stOvr with ovr := stOvr.ovr.set 0 (Vector.replicate 256 0xFF) } ∧
    (∃ s', step stOvr = .next s') ∧
    (SameButUnread { stOvr with waiting := some .latch }
        { stOvr with waiting := some .latch, ovr := stOvr.ovr.set 0 (Vector.replicate 256 0xFF) } ∧
      step { stOvr with waiting := some .latch } = .fault .busWriteNeverReturned) := by
  have h : ∀ c : Channel, stOvr.ovrValid[c] = true →
      (stOvr.ovr.set 0 (Vector.replicate 256 (0xFF : Byte)))[c] = stOvr.ovr[c] := by
    intro c hc
    have hne : (0 : Nat) ≠ c.val := by
      intro h0
      have : c = 0 := Fin.ext h0.symm
      subst this
      exact absurd hc (by decide)
    simp [hne]
  exact ⟨⟨rfl, h⟩, ⟨_, rfl⟩, ⟨rfl, h⟩, rfl⟩

theorem witness_EnableWritesThenSetsTheFlag : (st []).reply 0 = .ok ∧ (st [.fail]).reply 0 = .fail := ⟨rfl, rfl⟩

theorem witness_DisableWritesThenClearsTheFlag : (st []).reply 0 = .ok ∧ (st [.fail]).reply 0 = .fail := ⟨rfl, rfl⟩

theorem witness_ResetWritesTheDeviceAndNoBlockState : (st []).reply 0 = .ok ∧ (st [.fail]).reply 0 = .fail := ⟨rfl, rfl⟩

theorem witness_EnableLedsSendsTheMaskAndLatches : (st []).reply 0 = .ok ∧ (st []).reply 1 = .ok := ⟨rfl, rfl⟩

theorem witness_OutputCorrectsSendsAndLatches :
    (v18.length = 18 ∧ stOvr.reply 0 = .ok ∧ stOvr.reply 1 = .ok ∧ stOvr.ovrValid[(17 : Fin 18)] = true ∧
      stOvr.ovrValid[(0 : Fin 18)] = false) ∧ v17.length ≠ 18 := by decide +kernel

theorem witness_OutputRawSendsTheBytesAndLatches :
    (v18.length = 18 ∧ (st []).reply 0 = .ok ∧ (st []).reply 1 = .ok) ∧ v17.length ≠ 18 := by decide +kernel

/-- Each of the two failures; the three operations. -/
theorem witness_FailedWriteEndsWriteThenLatch :
    (st [.fail]).reply 0 = .fail ∧ ((st [.ok, .fail]).reply 0 = .ok ∧ (st [.ok, .fail]).reply 1 = .fail) ∧
    (∃ mask, Instr.enableLeds 1 = .enableLeds mask ∧ BusCmd.enableChannels #v[1, 0, 0] = .enableChannels (encMask mask)) ∧
    (∃ vals v, pwmVecOf vals = some v ∧ Instr.output v18 = .output vals) ∧
    (∃ vals v, pwmVecOf vals = some v ∧ Instr.outputRaw v18 = .outputRaw vals) := by
  obtain ⟨v, h, -⟩ := pwmVecOf_some (vals := v18) (by decide)
  exact ⟨rfl, ⟨rfl, rfl⟩, ⟨1, rfl, by decide⟩, ⟨v18, v, h, rfl⟩, ⟨v18, v, h, rfl⟩⟩

/-- A state whose log already holds a pair, and that makes another. -/
def logged : State :=
  { given (st []) [0x06 :: 0x12 :: v18] with
    busLog := [wr 0x01 v18 .ok, wr 0x16 [0xFF] .ok], responses := [[0x00]] }

theorem witness_EveryStepKeepsTheLatchDiscipline :
    logged.busLatched = true ∧ ∃ t, step logged = .next t ∧ t.busLog.length = 4 :=
  ⟨by decide +kernel, _, rfl, by decide +kernel⟩

theorem witness_EveryStepEmitsOnlyTableWrites :
    logged.busInTable = true ∧ ∃ t, step logged = .next t ∧ t.busLog.length = 4 :=
  ⟨by decide +kernel, _, rfl, by decide +kernel⟩

theorem witness_EveryStepKeepsTheResponseForm :
    logged.responsesShaped = true ∧ ∃ t, step logged = .next t ∧ t.responses.length = 2 :=
  ⟨by decide +kernel, _, rfl, by decide +kernel⟩

theorem witness_BehaviourIgnoresTheEnabledFlag :
    (∃ t, step logged = .next t) ∧ step { st [] with waiting := some .latch } = .fault .busWriteNeverReturned :=
  ⟨⟨_, rfl⟩, rfl⟩

theorem witness_EnabledFlagTransitions :
    (∃ t, exec .enable (st [.fail]) = .next t) ∧ (∃ t, exec .disable (st []) = .next t) ∧
    (Instr.reset ≠ .enable ∧ Instr.reset ≠ .disable ∧ ∃ t, exec .reset (st []) = .next t) :=
  ⟨⟨_, rfl⟩, ⟨_, rfl⟩, by decide, by decide, _, rfl⟩

/-- The three statuses. -/
theorem witness_BusWriteCounts :
    (∃ t, exec .enable (st []) = .next t ∧ t.responses = (st []).responses ++ [0x00 :: []]) ∧
    (∃ t, exec (.correct 0x12 0x00) (st []) = .next t ∧ t.responses = (st []).responses ++ [0x01 :: [0x03]]) ∧
    (∃ t, exec .enable (st [.fail]) = .next t ∧ t.responses = (st [.fail]).responses ++ [0x02 :: [0x00]]) :=
  ⟨⟨_, rfl, rfl⟩, ⟨_, rfl, rfl⟩, ⟨_, rfl, rfl⟩⟩

theorem witness_EncodingAndTablesDoNoBusWrite :
    (∃ t, exec (.encodeMask 0) (st []) = .next t) ∧ isCtl (.encodeMask 0) = false ∧ writesGlut (.encodeMask 0) = false :=
  ⟨⟨_, rfl⟩, rfl, rfl⟩

theorem witness_TableChangesAreNotRetroactive :
    writesGlut (.setChannelCurve 0x05 v256) = true ∧ ∃ t, exec (.setChannelCurve 0x05 v256) (st []) = .next t :=
  ⟨rfl, setsChannelFive.elim fun _ h => ⟨_, h⟩⟩

theorem witness_ErrorsLeaveTheBlockAsItWas :
    (∃ t, exec (.encodePwm v17) (st []) = .next t ∧ t.responses = (st []).responses ++ [0x01 :: [0x02]]) ∧
    (∃ t, exec .disable (st [.fail]) = .next t ∧ t.responses = (st [.fail]).responses ++ [0x02 :: [0x00]]) :=
  ⟨⟨_, rfl, rfl⟩, ⟨_, rfl, rfl⟩⟩

/-- The opcodes at both edges; frames of a wrong length with a bad count, channel or exponent too; the later ranks. -/
theorem witness_ErrorsAreReportedInOrder :
    (((0x00 : Byte) = 0x00 ∨ 0x0E ≤ (0x00 : Byte).toNat) ∧ ((0x0E : Byte) = 0x00 ∨ 0x0E ≤ (0x0E : Byte).toNat)) ∧
    ((given (st [.fail]) [[0x01, 0x00]]).Ready [0x01, 0x00] [] ∧ (0x01 : Byte) ∈ [(0x01 : Byte), 0x02, 0x03] ∧
      ([0x00] : Frame).length ≠ 0) ∧
    ((given (st [.fail]) [[0x04, 0x00]]).Ready [0x04, 0x00] [] ∧ (0x04 : Byte) ∈ [(0x04 : Byte), 0x0A] ∧
      ([0x00] : Frame).length ≠ 4) ∧
    ((given (st []) [[0x05, 0x13]]).Ready [0x05, 0x13] [] ∧ (0x05 : Byte) ∈ [(0x05 : Byte), 0x06, 0x0B] ∧
      ∀ len vals, ([0x13] : Frame) = len :: vals → vals.length ≠ len.toNat) ∧
    ((given (st []) [[0x07, 0x12, 0x01, 0x00]]).Ready [0x07, 0x12, 0x01, 0x00] [] ∧
      ∀ ch l0 l1 ents, ([0x12, 0x01, 0x00] : Frame) = ch :: l0 :: l1 :: ents → ents.length ≠ l0.toNat + 256 * l1.toNat) ∧
    ((given (st []) [[0x08, 0x00]]).Ready [0x08, 0x00] [] ∧ (0x08 : Byte) ∈ [(0x08 : Byte), 0x09, 0x0C] ∧
      ([0x00] : Frame).length ≠ 8) ∧
    ((given (st []) [[0x0D, 0x12]]).Ready [0x0D, 0x12] [] ∧ ([0x12] : Frame).length ≠ 2) ∧
    v17.length ≠ 256 ∧ (v256.length = 256 ∧ 18 ≤ (0x12 : Byte).toNat) ∧
    (v17.length ≠ 18 ∧ (st [.fail]).reply 0 = .fail) := by
  refine ⟨by decide, ⟨⟨rfl, rfl⟩, by decide⟩, ⟨⟨rfl, rfl⟩, by decide⟩, ⟨⟨rfl, rfl⟩, by decide, ?_⟩, ⟨⟨rfl, rfl⟩, ?_⟩,
    ⟨⟨rfl, rfl⟩, by decide⟩, ⟨⟨rfl, rfl⟩, by decide⟩, by decide, ⟨List.length_replicate, by decide⟩, by decide, rfl⟩
  · intro len vals h
    cases h
    decide
  · intro ch l0 l1 ents h
    cases h
    decide

theorem witness_FailedWriteLeavesRegistersOldOrNew : ∀ on, BusCmd.latch ≠ .outputEnable on := by simp

theorem witness_ShutdownKeepsRegisters : ∀ on, BusCmd.deviceReset ≠ .outputEnable on := by simp

theorem witness_BootSequenceDrivesTheOutputs : v18.length = 18 ∧ ∀ k, k < 5 → (st []).reply k = .ok :=
  ⟨by decide, fun k _ => rfl⟩

/-- Each of the three operations fails its latch; a later state with the same stage registers, in which each of the three latches; the two pairs of the last clauses. -/
theorem witness_NextLatchCommitsTheStaleWrite :
    ((st [.ok, .fail]).reply 0 = .ok ∧ (st [.ok, .fail]).reply 1 = .fail ∧
      (∃ c, WritesThenLatches (st [.ok, .fail]) (.enableLeds 1) c) ∧
      (∃ c, WritesThenLatches (st [.ok, .fail]) (.output v18) c) ∧
      (∃ c, WritesThenLatches (st [.ok, .fail]) (.outputRaw v18) c)) ∧
    (∃ s1, exec (.enableLeds 1) (st [.ok, .fail]) = .next s1 ∧
      ({ st [] with dev := s1.dev } : State).dev.pwmStage = s1.dev.pwmStage ∧
      ({ st [] with dev := s1.dev } : State).dev.enStage = s1.dev.enStage ∧
      ({ st [] with dev := s1.dev } : State).reply 0 = .ok ∧ ({ st [] with dev := s1.dev } : State).reply 1 = .ok ∧
      (∃ c, WritesThenLatches { st [] with dev := s1.dev } (.enableLeds 1) c) ∧
      (∃ c, WritesThenLatches { st [] with dev := s1.dev } (.output v18) c) ∧
      (∃ c, WritesThenLatches { st [] with dev := s1.dev } (.outputRaw v18) c)) ∧
    (∃ v, WritesThenLatches (st []) (.enableLeds 1) (.enableChannels (encMask 1)) ∧
      WritesThenLatches (st []) (.outputRaw v18) (.setPwm v)) := by
  obtain ⟨v, h, -⟩ := pwmVecOf_some (vals := v18) (by decide)
  exact ⟨⟨rfl, rfl, writeThenLatchOperations _⟩, ⟨_, rfl, rfl, rfl, rfl, rfl, writeThenLatchOperations _⟩,
    v, .inl ⟨1, rfl, rfl⟩, .inr ⟨v18, v, h, .inr ⟨rfl, rfl⟩⟩⟩

theorem witness_BlockResetRestoresTheBlockAlone :
    ({ st [] with inbox := [.blockReset], waiting := some .latch } : State).inbox = .blockReset :: [] := by rfl

end Sys2Proof.Tests
end

section
/-! SUPPORT. What an operation leaves unchanged (spec R19): an operation that is not of CTL changes nothing but the tables and
the responses, and only the three table writers change the tables. -/

namespace Sys2Proof.Machine

/-! Operations that are not of CTL. -/

/-- An operation that is not of CTL changes nothing but the GLUT state and the responses. -/
theorem exec_frame_of_not_ctl {i : Instr} {s t : State} (hi : isCtl i = false) (h : exec i s = .next t) :
    t = { s with shared := t.shared, ovrValid := t.ovrValid, ovr := t.ovr, responses := t.responses } := by
  cases i with
  | enable | disable | reset | enableLeds | output | outputRaw => cases hi
  | setChannelCurve ch ents =>
    simp only [exec, execSetChannelCurve] at h
    split at h
    · cases h; rfl
    · split at h <;> cases h <;> rfl
  | resetToShared exp =>
    simp only [exec, execResetToShared] at h
    split at h <;> cases h <;> rfl
  | regenDefault exp =>
    simp only [exec, execRegenDefault] at h
    split at h <;> cases h <;> rfl
  | encodeMask mask => cases h; rfl
  | encodePwm vals =>
    simp only [exec, execEncodePwm] at h
    split at h <;> cases h <;> rfl
  | generateCurve exp =>
    simp only [exec, execGenerateCurve] at h
    split at h <;> cases h <;> rfl
  | correct ch raw =>
    simp only [exec, execCorrect] at h
    split at h <;> cases h <;> rfl

/-! Operations that do not write tables. -/

/-- The GLUT state of R22 is the same. -/
def SameTables (s t : State) : Prop := t.shared = s.shared ∧ t.ovrValid = s.ovrValid ∧ t.ovr = s.ovr

theorem SameTables.trans {s t u : State} (h : SameTables s t) (h' : SameTables t u) : SameTables s u :=
  ⟨h'.1.trans h.1, h'.2.1.trans h.2.1, h'.2.2.trans h.2.2⟩

theorem sameTables_respondOk (bs : List Byte) (s : State) : SameTables s (respondOk bs s) := ⟨rfl, rfl, rfl⟩

theorem sameTables_raise (e : Error) (s : State) : SameTables s (raise e s) := ⟨rfl, rfl, rfl⟩

theorem sameTables_setEnabled (b : Bool) (s : State) : SameTables s (setEnabled b s) := ⟨rfl, rfl, rfl⟩

theorem sameTables_issue (c : BusCmd) (r : BusResult) (s : State) : SameTables s (issue c r s) := ⟨rfl, rfl, rfl⟩

/-- A bus write keeps the tables when what follows it does, whatever the transport answers. -/
theorem sameTables_busWrite (c : BusCmd) {k : State → State} (hk : ∀ t, SameTables t (k t)) (s : State) :
    SameTables s (busWrite c k s) := by
  rcases busWrite_cases c k s with ⟨_, e⟩ | ⟨_, e⟩ | ⟨_, e⟩ <;> rw [e]
  · exact (sameTables_issue c .ok s).trans (hk _)
  · exact (sameTables_issue c .fail s).trans (sameTables_raise _ _)
  · exact sameTables_issue c .never s

theorem sameTables_writeThenLatch (c : BusCmd) (s : State) : SameTables s (writeThenLatch c s) :=
  sameTables_busWrite c (sameTables_busWrite .latch (sameTables_respondOk [])) s

/-- An operation other than SET_CHANNEL_CURVE, RESET_TO_SHARED and REGEN_DEFAULT keeps the tables. -/
theorem exec_sameTables {i : Instr} {s t : State} (hi : writesGlut i = false) (h : exec i s = .next t) :
    SameTables s t := by
  cases i with
  | setChannelCurve | resetToShared | regenDefault => cases hi
  | enable =>
    cases h
    exact sameTables_busWrite _ (fun u => (sameTables_setEnabled true u).trans (sameTables_respondOk [] _)) s
  | disable =>
    cases h
    exact sameTables_busWrite _ (fun u => (sameTables_setEnabled false u).trans (sameTables_respondOk [] _)) s
  | reset => cases h; exact sameTables_busWrite _ (sameTables_respondOk []) s
  | enableLeds mask => cases h; exact sameTables_writeThenLatch _ s
  | output vals =>
    simp only [exec, execOutput] at h
    split at h <;> cases h
    · exact sameTables_raise _ s
    · exact sameTables_writeThenLatch _ s
  | outputRaw vals =>
    simp only [exec, execOutputRaw] at h
    split at h <;> cases h
    · exact sameTables_raise _ s
    · exact sameTables_writeThenLatch _ s
  | encodeMask mask => cases h; exact sameTables_respondOk _ s
  | encodePwm vals =>
    simp only [exec, execEncodePwm] at h
    split at h <;> cases h
    · exact sameTables_raise _ s
    · exact sameTables_respondOk _ s
  | generateCurve exp =>
    simp only [exec, execGenerateCurve] at h
    split at h <;> cases h
    · exact sameTables_respondOk _ s
    · exact sameTables_raise _ s
  | correct ch raw =>
    simp only [exec, execCorrect] at h
    split at h <;> cases h
    · exact sameTables_raise _ s
    · exact sameTables_respondOk _ s

/-- Settles O43, by the frame of the operations that are not of CTL and by the tables kept by those that write none. -/
theorem encodingAndTablesDoNoBusWrite : Obligations.EncodingAndTablesDoNoBusWrite := by
  intro i s t h
  refine ⟨fun hi => ?_, fun hi => exec_sameTables hi h⟩
  rw [exec_frame_of_not_ctl hi h]
  exact ⟨rfl, rfl, rfl, rfl, rfl⟩

end Sys2Proof.Machine
end

section
/-! SUPPORT. The generated curve in real arithmetic (spec R121): the exponent is the exact binary64 value, and the comparison
of whole powers is the comparison of 255 * (i/255)^e with a half-integer, on which it never lies. -/

namespace Sys2Proof.Machine

/-! The exponent. -/

theorem fracField_eq (x : BitVec 64) : fracField x = x.toNat % 2 ^ 52 := by
  simp [fracField]

theorem expField_eq (x : BitVec 64) : expField x = x.toNat / 2 ^ 52 % 2 ^ 11 := by
  simp [expField, Nat.shiftRight_eq_div_pow]

/-- The fraction in lowest terms is the significand at its scale. -/
theorem expNum_div_expDen (x : BitVec 64) :
    (expNum x : ℝ) / expDen x = significand x * 2 ^ ((scale x : ℤ) - 1075) := by
  have hden : (expDen x : ℝ) ≠ 0 := by exact_mod_cast (expDen_pos x).ne'
  have hmul : (expNum x : ℝ) * 2 ^ (1075 - scale x) = significand x * 2 ^ (scale x - 1075) * expDen x := by
    exact_mod_cast expNum_mul x
  have hscale : (2 : ℝ) ^ ((scale x : ℤ) - 1075) * 2 ^ (1075 - scale x) = 2 ^ (scale x - 1075) := by
    rw [← zpow_natCast, ← zpow_natCast, ← zpow_add₀ two_ne_zero]
    congr 1
    omega
  rw [div_eq_iff hden]
  refine mul_right_cancel₀ (pow_ne_zero (1075 - scale x) (two_ne_zero (α := ℝ))) ?_
  rw [hmul, ← hscale]
  ring

/-- A valid exponent is not zero and has its sign bit clear. -/
theorem toNat_of_validExponent {x : BitVec 64} (h : validExponent x = true) : x.toNat ≠ 0 ∧ x.toNat < 2 ^ 63 := by
  simp only [validExponent, Bool.and_eq_true, Bool.not_eq_true', decide_eq_true_eq] at h
  obtain ⟨⟨hsign, -⟩, hx⟩ := h
  have hlt : 2 * x.toNat < 2 ^ 64 := BitVec.msb_eq_false_iff_two_mul_lt.mp (x.msb_eq_getLsbD_last.trans hsign)
  exact ⟨fun h0 => hx (BitVec.eq_of_toNat_eq h0), by omega⟩

theorem significand_pos {x : BitVec 64} (h : validExponent x = true) : 0 < significand x := by
  obtain ⟨hne, hlt⟩ := toNat_of_validExponent h
  rw [significand, expField_eq, fracField_eq]
  split <;> omega

theorem expNum_pos {x : BitVec 64} (h : validExponent x = true) : 0 < expNum x := by
  refine Nat.pos_of_ne_zero fun h0 => ?_
  have hmul := expNum_mul x
  have hpos : 0 < significand x * 2 ^ (scale x - 1075) * expDen x :=
    Nat.mul_pos (Nat.mul_pos (significand_pos h) (Nat.two_pow_pos _)) (expDen_pos x)
  rw [h0, Nat.zero_mul] at hmul
  exact hpos.ne hmul

/-! The value of an entry before rounding. -/

/-- The exact value that entry `i` is rounded from at the exponent `e` (R121). -/
noncomputable def powerValue (e : ℝ) (i : Nat) : ℝ := 255 * ((i : ℝ) / 255) ^ e

theorem powerValue_nonneg (e : ℝ) (i : Nat) : 0 ≤ powerValue e i := by
  unfold powerValue
  positivity

theorem powerValue_le {e : ℝ} (he : 0 ≤ e) {i : Nat} (hi : i ≤ 255) : powerValue e i ≤ 255 := by
  have hbase : (i : ℝ) / 255 ≤ 1 := div_le_one_of_le₀ (by exact_mod_cast hi) (by norm_num)
  have hpow := Real.rpow_le_one (by positivity) hbase he
  unfold powerValue
  linarith

theorem powerValue_zero {e : ℝ} (he : e ≠ 0) : powerValue e 0 = 0 := by
  simp [powerValue, Real.zero_rpow he]

theorem powerValue_255 (e : ℝ) : powerValue e 255 = 255 := by
  simp [powerValue]

/-! The comparison with a half-integer. Both sides of the comparison of whole powers are `q`-th powers of the numbers
compared, times the same factor. -/

theorem half_pow_mul (p q j : Nat) :
    ((j : ℝ) + 1 / 2) ^ q * (255 ^ p * 2 ^ q) = ((2 * j + 1) ^ q * 255 ^ p : Nat) := by
  have h : (2 * (j : ℝ) + 1) = (j + 1 / 2) * 2 := by ring
  push_cast
  rw [h, mul_pow]
  ring

theorem powerValue_pow_mul (p i : Nat) {q : Nat} (hq : q ≠ 0) :
    powerValue (p / q) i ^ q * (255 ^ p * 2 ^ q) = (i ^ p * 510 ^ q : Nat) := by
  have hroot : (((i : ℝ) / 255) ^ ((p : ℝ) / q)) ^ q = ((i : ℝ) / 255) ^ p := by
    rw [← Real.rpow_mul_natCast (by positivity), div_mul_cancel₀ _ (Nat.cast_ne_zero.mpr hq), Real.rpow_natCast]
  have h510 : (510 : ℝ) = 255 * 2 := by norm_num
  push_cast
  rw [powerValue, mul_pow, hroot, div_pow, h510, mul_pow]
  field_simp

theorem half_lt_powerValue_iff (p i j : Nat) {q : Nat} (hq : q ≠ 0) :
    (j : ℝ) + 1 / 2 < powerValue (p / q) i ↔ (2 * j + 1) ^ q * 255 ^ p < i ^ p * 510 ^ q := by
  have hfactor : (0 : ℝ) < 255 ^ p * 2 ^ q := by positivity
  rw [← pow_lt_pow_iff_left₀ (by positivity) (powerValue_nonneg _ i) hq, ← mul_lt_mul_iff_left₀ hfactor, half_pow_mul,
    powerValue_pow_mul p i hq, Nat.cast_lt]

/-- An odd number is no even one, so the comparison of whole powers is never a tie. -/
theorem odd_powers_ne_even_powers (p i j : Nat) {q : Nat} (hq : q ≠ 0) : (2 * j + 1) ^ q * 255 ^ p ≠ i ^ p * 510 ^ q := by
  intro h
  have hodd : Odd ((2 * j + 1) ^ q * 255 ^ p) := (odd_two_mul_add_one j).pow.mul (Odd.pow (by decide))
  have heven : Even (i ^ p * 510 ^ q) := (Even.pow_of_ne_zero (by decide) hq).mul_left _
  exact Nat.not_even_iff_odd.mpr hodd (h ▸ heven)

/-- No value lies on a half-integer. -/
theorem powerValue_ne_half (p i j : Nat) {q : Nat} (hq : q ≠ 0) : powerValue (p / q) i ≠ j + 1 / 2 := by
  intro h
  have hpow := powerValue_pow_mul p i hq
  rw [h, half_pow_mul, Nat.cast_inj] at hpow
  exact odd_powers_ne_even_powers p i j hq hpow

/-- The exact comparison asks on which side of a half-integer the value lies. -/
theorem exactAbove_iff (p i j : Nat) {q : Nat} (hq : q ≠ 0) :
    exactAbove p q i j = true ↔ (j : ℝ) + 1 / 2 < powerValue (p / q) i := by
  rw [half_lt_powerValue_iff p i j hq]
  simp [exactAbove, odd_powers_ne_even_powers p i j hq]

theorem powerValue_lt_half (p i j : Nat) {q : Nat} (hq : q ≠ 0) (h : exactAbove p q i j = false) :
    powerValue (p / q) i < j + 1 / 2 := by
  refine lt_of_le_of_ne (not_lt.mp fun hlt => ?_) (powerValue_ne_half p i j hq)
  rw [(exactAbove_iff p i j hq).mpr hlt] at h
  cases h

/-- An entry is within one half of the value it is rounded from. -/
theorem powerValue_near_gammaEntry {kp p kq q i : Nat} (hp : p < 2 ^ kp) (hq : q < 2 ^ kq) (hp0 : p ≠ 0) (hq0 : q ≠ 0)
    (hi : i ≤ 255) : |powerValue (p / q) i - gammaEntry kp p kq q i| < 1 / 2 := by
  have he : (p : ℝ) / q ≠ 0 := div_ne_zero (Nat.cast_ne_zero.mpr hp0) (Nat.cast_ne_zero.mpr hq0)
  by_cases h0 : i = 0
  · subst h0
    simp [gammaEntry, powerValue_zero he]
  by_cases h255 : i = 255
  · subst h255
    simp [gammaEntry, powerValue_255]
  obtain ⟨hle, hbelow, habove⟩ := gammaEntry_spec hp hq h0 h255
  generalize gammaEntry kp p kq q i = n at hle hbelow habove
  have hlow : (n : ℝ) - 1 / 2 < powerValue (p / q) i := by
    rcases n with _ | m
    · have := powerValue_nonneg (p / q) i
      push_cast
      linarith
    · have := (exactAbove_iff p i m hq0).mp (hbelow.resolve_left m.succ_ne_zero)
      push_cast
      linarith
  have hhigh : powerValue (p / q) i < n + 1 / 2 := by
    rcases hle.lt_or_eq with hlt | rfl
    · exact powerValue_lt_half p i n hq0 (habove hlt)
    · have := powerValue_le (e := p / q) (by positivity) hi
      push_cast
      linarith
  rw [abs_lt]
  constructor <;> linarith

/-- Settles O19: the operand's value is the generator's fraction, at which every entry is within one half of its power. -/
theorem generatedCurveIsTheRoundedPower : Obligations.GeneratedCurveIsTheRoundedPower := by
  intro x i hx fraction biased e hf hb he
  have hvalue : e = (expNum x : ℝ) / expDen x := by
    rw [expNum_div_expDen, he, hf, hb, significand, scale, fracField_eq, expField_eq]
    split <;> norm_num
  rw [Fin.getElem_fin, gammaGen_toNat, hvalue]
  exact powerValue_near_gammaEntry Nat.lt_log2_self Nat.lt_log2_self (expNum_pos hx).ne' (expDen_pos x).ne'
    (Nat.le_of_lt_succ i.isLt)

end Sys2Proof.Machine
end

section
/-! SUPPORT. Two states that differ only in override stores of channels that are not overridden (spec R27, U6) go on differing
only there under every operation: each either reads no store, or reads those of the overridden channels, which agree. -/

namespace Sys2Proof.Machine

/-! The host port of a hung block. -/

/-- The block is stuck when it is hung and its reset input does not stand next (R221, R210). -/
theorem fetch_eq_stuck_iff (s : State) :
    fetch s = .stuck ↔ s.waiting ≠ none ∧ ∀ rest, s.inbox ≠ .blockReset :: rest := by
  rcases hi : s.inbox with _ | ⟨x, rest⟩
  · cases hw : s.waiting <;> simp [fetch, hi, hw]
  · cases x with
    | frame f => cases hw : s.waiting <;> simp [fetch, hi, hw]
    | blockReset => simp [fetch, hi]

/-- A step stops only where the block is stuck, and with the one fault. -/
theorem step_eq_fault_iff (s : State) (r : Fault) :
    step s = .fault r ↔ fetch s = .stuck ∧ r = .busWriteNeverReturned := by
  rcases fetch_cases s with ⟨_, _, hf⟩ | ⟨_, hf⟩ | ⟨rest, _, hf⟩ | ⟨f, rest, _, _, hf⟩ <;> simp only [step, hf]
  · simp
  · simp
  · simp
  · split
    · simp
    · next i _ =>
      obtain ⟨t, ht⟩ := exec_next i { s with inbox := rest }
      simp [ht]

/-! The relation. -/

theorem SameButUnread.exists_ovr {s t : State} (h : SameButUnread s t) :
    ∃ o, t = { s with ovr := o } ∧ ∀ c : Channel, s.ovrValid[c] = true → o[c] = s.ovr[c] :=
  ⟨t.ovr, h⟩

theorem SameButUnread.inbox_eq {s t : State} (h : SameButUnread s t) : t.inbox = s.inbox := by rw [h.1]

theorem SameButUnread.waiting_eq {s t : State} (h : SameButUnread s t) : t.waiting = s.waiting := by rw [h.1]

theorem SameButUnread.reply_eq {s t : State} (h : SameButUnread s t) (k : Nat) : t.reply k = s.reply k :=
  reply_congr (by rw [h.1]) k

/-- A look-up reads the shared curve or the store of an overridden channel (R27). -/
theorem SameButUnread.lutRead_eq {s t : State} (h : SameButUnread s t) : lutRead t = lutRead s := by
  obtain ⟨o, rfl, ho⟩ := h.exists_ovr
  funext c i
  cases hv : s.ovrValid[c] with
  | false => simp only [lutRead, hv, Bool.false_eq_true, if_false]
  | true => simp only [lutRead, hv, ho c hv]

theorem SameButUnread.gammaCorrect_eq {s t : State} (h : SameButUnread s t) (v : PwmVec) :
    gammaCorrect t v = gammaCorrect s v := by
  rw [gammaCorrect, gammaCorrect, h.lutRead_eq]

/-! The operations. -/

/-- The operation takes states that differ only in unread stores to such states. -/
def RespectsUnread (f : State → State) : Prop := ∀ ⦃s t : State⦄, SameButUnread s t → SameButUnread (f s) (f t)

theorem RespectsUnread.comp {f g : State → State} (hg : RespectsUnread g) (hf : RespectsUnread f) :
    RespectsUnread (fun s => g (f s)) :=
  fun _ _ h => hg (hf h)

/-- An operation that reads no store and keeps stores and marks. -/
theorem respectsUnread_of_commutes {f : State → State} (hf : ∀ s o, f { s with ovr := o } = { f s with ovr := o })
    (hkeeps : ∀ s, (f s).ovrValid = s.ovrValid ∧ (f s).ovr = s.ovr) : RespectsUnread f := by
  intro s t h
  obtain ⟨o, rfl, ho⟩ := h.exists_ovr
  obtain ⟨hv, hovr⟩ := hkeeps s
  rw [hf s o]
  exact ⟨rfl, by simpa only [hv, hovr] using ho⟩

theorem respectsUnread_respondOk (bs : List Byte) : RespectsUnread (respondOk bs) :=
  respectsUnread_of_commutes (fun _ _ => rfl) fun _ => ⟨rfl, rfl⟩

theorem respectsUnread_raise (e : Error) : RespectsUnread (raise e) :=
  respectsUnread_of_commutes (fun _ _ => rfl) fun _ => ⟨rfl, rfl⟩

theorem respectsUnread_setEnabled (b : Bool) : RespectsUnread (setEnabled b) :=
  respectsUnread_of_commutes (fun _ _ => rfl) fun _ => ⟨rfl, rfl⟩

theorem respectsUnread_issue (c : BusCmd) (r : BusResult) : RespectsUnread (issue c r) :=
  respectsUnread_of_commutes (fun _ _ => rfl) fun _ => ⟨rfl, rfl⟩

theorem respectsUnread_lutWriteShared (curve : Curve) : RespectsUnread (lutWriteShared curve) :=
  respectsUnread_of_commutes (fun _ _ => rfl) fun _ => ⟨rfl, rfl⟩

theorem respectsUnread_takeFrame (rest : List Stimulus) : RespectsUnread (fun s => { s with inbox := rest }) :=
  respectsUnread_of_commutes (fun _ _ => rfl) fun _ => ⟨rfl, rfl⟩

/-- No channel is overridden afterwards, so no store is read. -/
theorem respectsUnread_clearOverrides : RespectsUnread clearOverrides := by
  intro s t h
  obtain ⟨o, rfl, -⟩ := h.exists_ovr
  exact ⟨rfl, fun c hc => by simp at hc⟩

/-- The stores are drawn anew, alike in both states. -/
theorem respectsUnread_blockReset : RespectsUnread blockReset := by
  intro s t h
  obtain ⟨o, rfl, -⟩ := h.exists_ovr
  exact ⟨rfl, fun _ _ => rfl⟩

/-- The one channel whose store becomes read has the same store in both states. -/
theorem respectsUnread_lutWriteOvr (c : Channel) (curve : Curve) : RespectsUnread (lutWriteOvr c curve) := by
  intro s t h
  obtain ⟨o, rfl, ho⟩ := h.exists_ovr
  refine ⟨rfl, fun d hd => ?_⟩
  by_cases hdc : c.val = d.val
  · simp [hdc]
  · simpa [hdc] using ho d (by simpa [hdc] using hd)

theorem RespectsUnread.busWrite {k : State → State} (hk : RespectsUnread k) (c : BusCmd) :
    RespectsUnread (busWrite c k) := by
  intro s t h
  have hreply := h.reply_eq 0
  cases h0 : s.reply 0 with
  | ok =>
    rw [busWrite_ok h0, busWrite_ok (hreply.trans h0)]
    exact hk (respectsUnread_issue c .ok h)
  | fail =>
    rw [busWrite_fail h0, busWrite_fail (hreply.trans h0)]
    exact respectsUnread_raise _ (respectsUnread_issue c .fail h)
  | never =>
    rw [busWrite_never h0, busWrite_never (hreply.trans h0)]
    exact respectsUnread_issue c .never h

theorem respectsUnread_writeThenLatch (c : BusCmd) : RespectsUnread (writeThenLatch c) :=
  ((respectsUnread_respondOk []).busWrite .latch).busWrite c

/-! The instructions and the step. -/

/-- Every instruction, run in both states, ends in states that differ only in unread stores. -/
theorem exec_sameButUnread (i : Instr) {s t : State} (h : SameButUnread s t) :
    ∃ s' t', exec i s = .next s' ∧ exec i t = .next t' ∧ SameButUnread s' t' := by
  cases i with
  | enable =>
    exact ⟨_, _, rfl, rfl, ((respectsUnread_respondOk []).comp (respectsUnread_setEnabled true)).busWrite _ h⟩
  | disable =>
    exact ⟨_, _, rfl, rfl, ((respectsUnread_respondOk []).comp (respectsUnread_setEnabled false)).busWrite _ h⟩
  | reset => exact ⟨_, _, rfl, rfl, (respectsUnread_respondOk []).busWrite _ h⟩
  | enableLeds mask => exact ⟨_, _, rfl, rfl, respectsUnread_writeThenLatch _ h⟩
  | output vals =>
    simp only [exec, execOutput]
    split
    · exact ⟨_, _, rfl, rfl, respectsUnread_raise _ h⟩
    · rw [h.gammaCorrect_eq]
      exact ⟨_, _, rfl, rfl, respectsUnread_writeThenLatch _ h⟩
  | outputRaw vals =>
    simp only [exec, execOutputRaw]
    split
    · exact ⟨_, _, rfl, rfl, respectsUnread_raise _ h⟩
    · exact ⟨_, _, rfl, rfl, respectsUnread_writeThenLatch _ h⟩
  | setChannelCurve ch ents =>
    simp only [exec, execSetChannelCurve]
    split
    · exact ⟨_, _, rfl, rfl, respectsUnread_raise _ h⟩
    · split
      · exact ⟨_, _, rfl, rfl, respectsUnread_raise _ h⟩
      · exact ⟨_, _, rfl, rfl, respectsUnread_respondOk [] (respectsUnread_lutWriteOvr _ _ h)⟩
  | resetToShared exp =>
    simp only [exec, execResetToShared]
    split
    · exact ⟨_, _, rfl, rfl,
        respectsUnread_respondOk [] (respectsUnread_clearOverrides (respectsUnread_lutWriteShared _ h))⟩
    · exact ⟨_, _, rfl, rfl, respectsUnread_raise _ h⟩
  | regenDefault exp =>
    simp only [exec, execRegenDefault]
    split
    · exact ⟨_, _, rfl, rfl, respectsUnread_respondOk [] (respectsUnread_lutWriteShared _ h)⟩
    · exact ⟨_, _, rfl, rfl, respectsUnread_raise _ h⟩
  | encodeMask mask => exact ⟨_, _, rfl, rfl, respectsUnread_respondOk _ h⟩
  | encodePwm vals =>
    simp only [exec, execEncodePwm]
    split
    · exact ⟨_, _, rfl, rfl, respectsUnread_raise _ h⟩
    · exact ⟨_, _, rfl, rfl, respectsUnread_respondOk _ h⟩
  | generateCurve exp =>
    simp only [exec, execGenerateCurve]
    split
    · exact ⟨_, _, rfl, rfl, respectsUnread_respondOk _ h⟩
    · exact ⟨_, _, rfl, rfl, respectsUnread_raise _ h⟩
  | correct ch raw =>
    simp only [exec, execCorrect]
    split
    · exact ⟨_, _, rfl, rfl, respectsUnread_raise _ h⟩
    · rw [h.lutRead_eq]
      exact ⟨_, _, rfl, rfl, respectsUnread_respondOk _ h⟩

/-- A step that goes on, taken in both states. -/
theorem step_sameButUnread {s t s' : State} (h : SameButUnread s t) (hs : step s = .next s') :
    ∃ t', step t = .next t' ∧ SameButUnread s' t' := by
  have hi := h.inbox_eq
  have hw := h.waiting_eq
  rcases fetch_cases s with ⟨hi', hw', hf⟩ | ⟨_, hf⟩ | ⟨rest, hi', hf⟩ | ⟨f, rest, hw', hi', hf⟩ <;>
    simp only [step, hf] at hs
  · cases hs
    exact ⟨t, by simp [step, fetch, hi, hw, hi', hw'], h⟩
  · cases hs
  · cases hs
    exact ⟨_, by rw [step, fetch_blockReset (hi.trans hi')],
      respectsUnread_blockReset (respectsUnread_takeFrame rest h)⟩
  · simp only [step, fetch_request (hw.trans hw') (hi.trans hi')]
    split at hs
    · cases hs
      exact ⟨_, rfl, respectsUnread_raise _ (respectsUnread_takeFrame rest h)⟩
    · next i _ =>
      obtain ⟨u, t', hu, ht', hsame⟩ := exec_sameButUnread i (respectsUnread_takeFrame rest h)
      rw [hu] at hs
      cases hs
      exact ⟨t', ht', hsame⟩

/-- Settles O28: every operation respects the relation, and whether a step stops shows in the port and the hang alone. -/
theorem unreadOverrideStoresAreNeverSeen : Obligations.UnreadOverrideStoresAreNeverSeen := by
  intro s t h
  refine ⟨fun s' => step_sameButUnread h, fun r hs => ?_⟩
  rw [step_eq_fault_iff, fetch_eq_stuck_iff] at hs ⊢
  rwa [h.inbox_eq, h.waiting_eq]

end Sys2Proof.Machine
end

section
/-! SUPPORT. The step of a ready block (spec R21, R49), how an operation that passed its operand checks ends (R81, R159, R221),
and the reset values (R32). -/

namespace Sys2Proof.Machine

/-! The step of a ready block. -/

theorem step_of_decode_ok {s : State} {f : Frame} {rest : List Stimulus} {i : Instr} (h : s.Ready f rest)
    (hd : decode f = .ok i) : step s = exec i { s with inbox := rest } := by
  obtain ⟨hw, hi⟩ := h
  simp only [step, fetch_request hw hi, hd]

theorem step_of_decode_error {s : State} {f : Frame} {rest : List Stimulus} {e : Error} (h : s.Ready f rest)
    (hd : decode f = .error e) : step s = .next (raise e { s with inbox := rest }) := by
  obtain ⟨hw, hi⟩ := h
  simp only [step, fetch_request hw hi, hd]

theorem decodeTableWord_eq_some_iff {nbits w : Nat} {i : Instr} :
    decodeTableWord nbits w = some i ↔ decode (frameOfWord nbits w) = .ok i := by
  rw [decodeTableWord]
  split <;> simp [*]

/-- Settles O7: a delivered table word makes the block ready with the word's frame. -/
theorem stepRunsTheDecodedRequest : Obligations.StepRunsTheDecodedRequest := by
  refine ⟨fun _ _ _ _ => step_of_decode_ok, fun s nbits w i h => ?_⟩
  have hready : (s.withFetchWord nbits w).Ready (frameOfWord nbits w) s.inbox := ⟨rfl, rfl⟩
  exact step_of_decode_ok hready (decodeTableWord_eq_some_iff.mp h)

/-! The end of an operation. -/

/-- How an operation of `n` bus writes that accepts its operands ends (R81, R151, R159, R221): it makes all its writes and
answers OK, or answers with a transport error after one of them, or is left waiting in one with no response. -/
inductive Ending (n : Nat) (s t : State) : Prop where
  | completed (bytes : List Byte) (hinbox : t.inbox = s.inbox) (hwaiting : t.waiting = s.waiting)
      (hresponses : t.responses = s.responses ++ [0x00 :: bytes])
      (hwrites : t.busLog.length = s.busLog.length + n)
  | failed (code : Byte) (hinbox : t.inbox = s.inbox) (hwaiting : t.waiting = s.waiting)
      (hresponses : t.responses = s.responses ++ [[0x02, code]])
      (hsome : s.busLog.length < t.busLog.length) (hmost : t.busLog.length ≤ s.busLog.length + n)
  | hung (hinbox : t.inbox = s.inbox) (hwaiting : t.waiting ≠ none) (hresponses : t.responses = s.responses)

/-- An operation without a bus write answers OK. -/
theorem ending_respondOk (bytes : List Byte) {s t : State} (hinbox : t.inbox = s.inbox) (hwaiting : t.waiting = s.waiting)
    (hresponses : t.responses = s.responses) (hbusLog : t.busLog = s.busLog) : Ending 0 s (respondOk bytes t) :=
  .completed bytes hinbox hwaiting (by simp [hresponses, statusOk]) (by simp [hbusLog])

theorem ending_setEnabled (b : Bool) (s : State) : Ending 0 s (respondOk [] (setEnabled b s)) :=
  ending_respondOk [] rfl rfl rfl rfl

/-- A bus write that returned ok, before an operation of `n` writes, makes one of `n + 1`. -/
theorem Ending.of_issue_ok {n : Nat} {c : BusCmd} {s t : State} (h : Ending n (issue c .ok s) t) : Ending (n + 1) s t := by
  cases h with
  | completed bytes hinbox hwaiting hresponses hwrites =>
    exact .completed bytes hinbox hwaiting hresponses (by simp at hwrites; omega)
  | failed code hinbox hwaiting hresponses hsome hmost =>
    exact .failed code hinbox hwaiting hresponses (by simp at hsome; omega) (by simp at hmost; omega)
  | hung hinbox hwaiting hresponses => exact .hung hinbox hwaiting hresponses

theorem ending_busWrite {n : Nat} {k : State → State} (hk : ∀ u, Ending n u (k u)) (c : BusCmd) (s : State) :
    Ending (n + 1) s (busWrite c k s) := by
  rcases busWrite_cases c k s with ⟨_, e⟩ | ⟨_, e⟩ | ⟨_, e⟩ <;> rw [e]
  · exact (hk _).of_issue_ok
  · exact .failed c.code rfl rfl rfl (by simp) (by simp)
  · exact .hung rfl (by simp) rfl

theorem ending_writeThenLatch (c : BusCmd) (s : State) : Ending 2 s (writeThenLatch c s) :=
  ending_busWrite (ending_busWrite (fun _ => ending_respondOk [] rfl rfl rfl rfl) .latch) c s

/-- Every instruction either refuses its operands, and does nothing else, or ends after its bus writes (R159, R186). -/
theorem exec_ending {i : Instr} {s t : State} (h : exec i s = .next t) :
    (∃ r, t = raise (.invalidArgument r) s) ∨ Ending (busWritesOnSuccess i) s t := by
  cases i with
  | enable =>
    cases h
    exact .inr (ending_busWrite (ending_setEnabled true) _ s)
  | disable =>
    cases h
    exact .inr (ending_busWrite (ending_setEnabled false) _ s)
  | reset =>
    cases h
    exact .inr (ending_busWrite (fun _ => ending_respondOk [] rfl rfl rfl rfl) _ s)
  | enableLeds mask =>
    cases h
    exact .inr (ending_writeThenLatch _ s)
  | output vals =>
    simp only [exec, execOutput] at h
    split at h <;> cases h
    · exact .inl ⟨_, rfl⟩
    · exact .inr (ending_writeThenLatch _ s)
  | outputRaw vals =>
    simp only [exec, execOutputRaw] at h
    split at h <;> cases h
    · exact .inl ⟨_, rfl⟩
    · exact .inr (ending_writeThenLatch _ s)
  | setChannelCurve ch ents =>
    simp only [exec, execSetChannelCurve] at h
    split at h
    · cases h
      exact .inl ⟨_, rfl⟩
    · split at h <;> cases h
      · exact .inl ⟨_, rfl⟩
      · exact .inr (ending_respondOk [] rfl rfl rfl rfl)
  | resetToShared exp =>
    simp only [exec, execResetToShared] at h
    split at h <;> cases h
    · exact .inr (ending_respondOk [] rfl rfl rfl rfl)
    · exact .inl ⟨_, rfl⟩
  | regenDefault exp =>
    simp only [exec, execRegenDefault] at h
    split at h <;> cases h
    · exact .inr (ending_respondOk [] rfl rfl rfl rfl)
    · exact .inl ⟨_, rfl⟩
  | encodeMask mask =>
    cases h
    exact .inr (ending_respondOk _ rfl rfl rfl rfl)
  | encodePwm vals =>
    simp only [exec, execEncodePwm] at h
    split at h <;> cases h
    · exact .inl ⟨_, rfl⟩
    · exact .inr (ending_respondOk _ rfl rfl rfl rfl)
  | generateCurve exp =>
    simp only [exec, execGenerateCurve] at h
    split at h <;> cases h
    · exact .inr (ending_respondOk _ rfl rfl rfl rfl)
    · exact .inl ⟨_, rfl⟩
  | correct ch raw =>
    simp only [exec, execCorrect] at h
    split at h <;> cases h
    · exact .inl ⟨_, rfl⟩
    · exact .inr (ending_respondOk _ rfl rfl rfl rfl)

/-- Settles O11: a frame that does not decode is answered at once, and every instruction ends in one of the four ways. -/
theorem oneResponsePerRequest : Obligations.OneResponsePerRequest := by
  intro s t f rest hready hstep
  have ⟨hw, _⟩ := hready
  cases hd : decode f with
  | error e =>
    rw [step_of_decode_error hready hd] at hstep
    cases hstep
    exact ⟨rfl, .inl ⟨hw, _, rfl⟩⟩
  | ok i =>
    rw [step_of_decode_ok hready hd] at hstep
    rcases exec_ending hstep with ⟨r, rfl⟩ | ending
    · exact ⟨rfl, .inl ⟨hw, _, rfl⟩⟩
    · cases ending with
      | completed bytes hinbox hwaiting hresponses => exact ⟨hinbox, .inl ⟨hwaiting.trans hw, _, hresponses⟩⟩
      | failed code hinbox hwaiting hresponses => exact ⟨hinbox, .inl ⟨hwaiting.trans hw, _, hresponses⟩⟩
      | hung hinbox hwaiting hresponses => exact ⟨hinbox, .inr ⟨hwaiting, hresponses⟩⟩

theorem busWritesOnSuccess_le_two (i : Instr) : busWritesOnSuccess i ≤ 2 := by
  cases i <;> simp [busWritesOnSuccess]

/-- Two last responses to the same record agree. -/
theorem response_unique {t : State} {record : List Frame} {r r' : Frame} (h : t.responses = record ++ [r])
    (h' : t.responses = record ++ [r']) : r = r' := by
  simpa using h.symm.trans h'

/-- Settles O42: the status tells which ending it was. -/
theorem busWriteCounts : Obligations.BusWriteCounts := by
  intro i s t status body h hresponse
  rcases exec_ending h with ⟨r, rfl⟩ | ending
  · obtain ⟨rfl, -⟩ := List.cons.inj (response_unique (raise_responses _ s) hresponse)
    simp [errorStatus]
  · cases ending with
    | completed bytes hinbox hwaiting hresponses hwrites =>
      obtain ⟨rfl, -⟩ := List.cons.inj (response_unique hresponses hresponse)
      simpa using hwrites
    | failed code hinbox hwaiting hresponses hsome hmost =>
      obtain ⟨rfl, -⟩ := List.cons.inj (response_unique hresponses hresponse)
      have := busWritesOnSuccess_le_two i
      refine ⟨by simp, by simp, fun _ => ?_⟩
      omega
    | hung hinbox hwaiting hresponses => simp [hresponses] at hresponse

/-! The reset values. -/

theorem defaultCurve_toList : Config.defaultCurve.toList = Config.defaultCurveTable := rfl

/-- Settles O53, by the reset values field by field. -/
theorem resetValues : Obligations.ResetValues :=
  ⟨reset_enabled, reset_enabled, reset_shared ▸ defaultCurve_toList, fun c => by simp⟩

end Sys2Proof.Machine
end

section
/-! SUPPORT. The operations that set, clear and read the override curves (spec R26, R27, R127 to R130). -/

namespace Sys2Proof.Machine

/-! SET_CHANNEL_CURVE and CORRECT by their operands. -/

theorem exec_setChannelCurve_ok {ch : Byte} {ents : List Byte} {curve : Curve} {c : Channel}
    (hl : curveOf ents = some curve) (hc : channelOf ch = some c) (s : State) :
    exec (.setChannelCurve ch ents) s = .next (respondOk [] (lutWriteOvr c curve s)) := by
  simp only [exec, execSetChannelCurve, hl, hc]

theorem exec_setChannelCurve_badCount {ents : List Byte} (hl : ents.length ≠ 256) (ch : Byte) (s : State) :
    exec (.setChannelCurve ch ents) s = .next (raise (.invalidArgument .badCount) s) := by
  simp only [exec, execSetChannelCurve, curveOf_none hl]

theorem exec_setChannelCurve_badChannel {ch : Byte} {ents : List Byte} (hl : ents.length = 256) (hc : 18 ≤ ch.toNat)
    (s : State) : exec (.setChannelCurve ch ents) s = .next (raise (.invalidArgument .badChannel) s) := by
  obtain ⟨curve, hcurve, -⟩ := curveOf_some hl
  simp only [exec, execSetChannelCurve, hcurve, channelOf_none hc]

theorem exec_correct_ok {ch : Byte} (hc : ch.toNat < 18) (raw : Byte) (s : State) :
    exec (.correct ch raw) s = .next (respondOk [lutRead s ⟨ch.toNat, hc⟩ raw] s) := by
  simp only [exec, execCorrect, channelOf_some hc]

theorem exec_correct_badChannel {ch : Byte} (hc : 18 ≤ ch.toNat) (raw : Byte) (s : State) :
    exec (.correct ch raw) s = .next (raise (.invalidArgument .badChannel) s) := by
  simp only [exec, execCorrect, channelOf_none hc]

/-! Look-ups (R27). -/

theorem lutRead_of_overridden {s : State} {c : Channel} (h : s.ovrValid[c] = true) (i : Byte) :
    lutRead s c i = entry s.ovr[c] i := by
  rw [lutRead, if_pos h]

theorem lutRead_of_not_overridden {s : State} {c : Channel} (h : s.ovrValid[c] = false) (i : Byte) :
    lutRead s c i = entry s.shared i := by
  rw [lutRead, if_neg (by simp [h])]

@[simp] theorem lutRead_respondOk (bs : List Byte) (s : State) : lutRead (respondOk bs s) = lutRead s := rfl

@[simp] theorem lutRead_setEnabled (b : Bool) (s : State) : lutRead (setEnabled b s) = lutRead s := rfl

@[simp] theorem lutRead_issue (c : BusCmd) (r : BusResult) (s : State) : lutRead (issue c r s) = lutRead s := rfl

/-- Settles O23, by what SET_CHANNEL_CURVE writes and what a look-up reads after it. -/
theorem setChannelCurveOverridesOneChannel : Obligations.SetChannelCurveOverridesOneChannel := by
  intro ch ents s
  refine ⟨fun hc hl => ?_, fun hl => exec_setChannelCurve_badCount hl ch s,
    fun hc hl => exec_setChannelCurve_badChannel hl hc s⟩
  obtain ⟨curve, hcurve, rfl⟩ := curveOf_some hl
  have hexec := exec_setChannelCurve_ok hcurve (channelOf_some hc) s
  refine ⟨_, _, hexec, by simp, by simp, fun d hd => ?_, fun t ht d i => ?_⟩
  · simp [hd.symm]
  · rw [hexec] at ht
    cases ht
    simp [lutRead_lutWriteOvr, Fin.ext_iff, entry]

/-- Settles O24, by the two cases of a look-up. -/
theorem correctReadsTheEffectiveCurve : Obligations.CorrectReadsTheEffectiveCurve := by
  refine fun ch raw s => ⟨fun hc h => ?_, fun hc h => ?_, fun hc => exec_correct_badChannel hc raw s⟩
  · rw [exec_correct_ok hc, lutRead_of_overridden h]
    rfl
  · rw [exec_correct_ok hc, lutRead_of_not_overridden h]
    rfl

/-! The override marks (R26, R130). -/

/-- A mark that SET_CHANNEL_CURVE changes is that of its channel, now set. -/
theorem ovrValid_changed_by_setChannelCurve {ch : Byte} {ents : List Byte} {s t : State} {c : Channel}
    (h : exec (.setChannelCurve ch ents) s = .next t) (hchanged : t.ovrValid[c] ≠ s.ovrValid[c]) :
    t.ovrValid[c] = true ∧ ch.toNat = c.val ∧ ents.length = 256 := by
  by_cases hl : ents.length = 256
  · rcases Nat.lt_or_ge ch.toNat 18 with hc | hc
    · obtain ⟨curve, hcurve, -⟩ := curveOf_some hl
      rw [exec_setChannelCurve_ok hcurve (channelOf_some hc)] at h
      cases h
      by_cases hcc : ch.toNat = c.val
      · exact ⟨by simp [hcc], hcc, hl⟩
      · simp [hcc] at hchanged
    · rw [exec_setChannelCurve_badChannel hl hc] at h
      cases h
      exact absurd rfl hchanged
  · rw [exec_setChannelCurve_badCount hl] at h
    cases h
    exact absurd rfl hchanged

/-- A mark that RESET_TO_SHARED changes is clear afterwards, and the exponent was valid. -/
theorem ovrValid_changed_by_resetToShared {x : BitVec 64} {s t : State} {c : Channel}
    (h : exec (.resetToShared x) s = .next t) (hchanged : t.ovrValid[c] ≠ s.ovrValid[c]) :
    t.ovrValid[c] = false ∧ validExponent x = true := by
  simp only [exec, execResetToShared] at h
  split at h <;> cases h
  · next hx => exact ⟨by simp, hx⟩
  · exact absurd rfl hchanged

theorem ovrValid_kept_by_regenDefault {x : BitVec 64} {s t : State} (h : exec (.regenDefault x) s = .next t) :
    t.ovrValid = s.ovrValid := by
  simp only [exec, execRegenDefault] at h
  split at h <;> cases h <;> rfl

/-- Settles O27: of the three operations that write tables, REGEN_DEFAULT keeps the marks. -/
theorem overrideMarksChangeOnlyByTheirOperations : Obligations.OverrideMarksChangeOnlyByTheirOperations := by
  refine ⟨fun i s t c h hchanged => ?_, fun c => by simp⟩
  cases hi : writesGlut i with
  | false =>
    obtain ⟨-, hmarks, -⟩ := exec_sameTables hi h
    exact absurd (by rw [hmarks]) hchanged
  | true =>
    cases i with
    | setChannelCurve ch ents =>
      obtain ⟨hset, hch, hl⟩ := ovrValid_changed_by_setChannelCurve h hchanged
      exact .inl ⟨hset, ch, ents, rfl, hch, hl⟩
    | resetToShared x =>
      obtain ⟨hclear, hx⟩ := ovrValid_changed_by_resetToShared h hchanged
      exact .inr ⟨hclear, x, rfl, hx⟩
    | regenDefault x => exact absurd (by rw [ovrValid_kept_by_regenDefault h]) hchanged
    | _ => simp [writesGlut] at hi

end Sys2Proof.Machine
end

section
/-! SUPPORT. The CTL operations whose bus writes all return ok (spec R152 to R157), and the outputs the device then drives
(R56, R214). -/

namespace Sys2Proof.Machine

/-! ENABLE and the write-then-latch operations. -/

theorem exec_output_badCount {vals : List Byte} (hl : vals.length ≠ 18) (s : State) :
    exec (.output vals) s = .next (raise (.invalidArgument .badCount) s) := by
  simp only [exec, execOutput, pwmVecOf_none hl]

@[simp] theorem reply_respondOk (bs : List Byte) (s : State) (k : Nat) : (respondOk bs s).reply k = s.reply k := rfl

@[simp] theorem reply_setEnabled (b : Bool) (s : State) (k : Nat) : (setEnabled b s).reply k = s.reply k := rfl

/-- A write-then-latch operation whose two writes return ok (R151). -/
theorem exec_writeThenLatch_ok {s : State} {i : Instr} {c : BusCmd} (h : WritesThenLatches s i c)
    (h0 : s.reply 0 = .ok) (h1 : s.reply 1 = .ok) :
    exec i s = .next (respondOk [] (issue .latch .ok (issue c .ok s))) := by
  rw [exec_writeThenLatch h, writeThenLatch_ok h0 h1]

theorem exec_enable_ok {s : State} (h0 : s.reply 0 = .ok) :
    exec .enable s = .next (respondOk [] (setEnabled true (issue (.outputEnable true) .ok s))) :=
  congrArg Host.Outcome.next (busWrite_ok h0)

theorem exec_enableLeds_ok {s : State} (h0 : s.reply 0 = .ok) (h1 : s.reply 1 = .ok) (mask : BitVec 32) :
    exec (.enableLeds mask) s =
      .next (respondOk [] (issue .latch .ok (issue (.enableChannels (encMask mask)) .ok s))) :=
  exec_writeThenLatch_ok (.inl ⟨mask, rfl, rfl⟩) h0 h1

theorem exec_output_ok {s : State} {vals : List Byte} {v : PwmVec} (hv : pwmVecOf vals = some v)
    (h0 : s.reply 0 = .ok) (h1 : s.reply 1 = .ok) :
    exec (.output vals) s = .next (respondOk [] (issue .latch .ok (issue (.setPwm (gammaCorrect s v)) .ok s))) :=
  exec_writeThenLatch_ok (.inr ⟨vals, v, hv, .inl ⟨rfl, rfl⟩⟩) h0 h1

theorem exec_outputRaw_ok {s : State} {vals : List Byte} {v : PwmVec} (hv : pwmVecOf vals = some v)
    (h0 : s.reply 0 = .ok) (h1 : s.reply 1 = .ok) :
    exec (.outputRaw vals) s = .next (respondOk [] (issue .latch .ok (issue (.setPwm v) .ok s))) :=
  exec_writeThenLatch_ok (.inr ⟨vals, v, hv, .inr ⟨rfl, rfl⟩⟩) h0 h1

/-- A set-PWM write and its latch, answered OK: what the device, the bus and the host see (R52, R54, R81). -/
theorem setPwm_then_latch (p : PwmVec) (s : State) :
    respondOk [] (issue .latch .ok (issue (.setPwm p) .ok s)) =
      { s with
        dev := { s.dev with pwmStage := p, pwmLive := p, enLive := s.dev.enStage }
        busLog := s.busLog ++ [⟨0x54, 0x01, p.toList, .ok⟩, ⟨0x54, 0x16, [0xFF], .ok⟩]
        transport := s.transport.tail.tail
        responses := s.responses ++ [[0x00]] } := by
  rw [List.append_cons s.busLog]
  rfl

/-- Settles O33: the vector sent is the gamma-corrected one, read channel by channel. -/
theorem outputCorrectsSendsAndLatches : Obligations.OutputCorrectsSendsAndLatches := by
  refine fun vals s => ⟨fun hl h0 h1 => ?_, fun hl => exec_output_badCount hl s⟩
  obtain ⟨v, hv, rfl⟩ := pwmVecOf_some hl
  refine ⟨gammaCorrect s v, fun c hc => ?_, fun c hc => ?_, ?_⟩
  · simp [lutRead_of_overridden hc, entry]
  · simp [lutRead_of_not_overridden hc, entry]
  · rw [exec_output_ok hv h0 h1, setPwm_then_latch]

/-- Bit `j` of the enable bits that group `g` takes from an encoded mask is mask bit `6 * g + j` (R53, R101). -/
theorem getLsbD_group_encMask (mask : BitVec 32) {g j : Nat} (hg : g < 3) (hj : j < 6) :
    ((encMask mask)[g].extractLsb' 0 6).getLsbD j = mask.getLsbD (6 * g + j) := by
  have hj8 : j < 8 := by omega
  interval_cases g <;> simp [encMask, hj, hj8]

/-- The output of a channel of an enabled device that has latched an encoded mask and a PWM vector (R56). -/
theorem outputOf_of_latched_mask {d : Device} {mask : BitVec 32} (hoe : d.oe = true)
    (hen : ∀ (g : Nat) (hg : g < 3), d.enLive[g] = (encMask mask)[g].extractLsb' 0 6) (c : Channel) :
    outputOf d c = if mask.getLsbD c.val then some d.pwmLive[c] else none := by
  have hg : c.val / 6 < 3 := by omega
  have hj : c.val % 6 < 6 := by omega
  rw [outputOf, hoe, Bool.true_and, hen _ hg, getLsbD_group_encMask mask hg hj, Nat.div_add_mod]

/-- A PWM vector latched over a staged mask drives the channels of the mask. -/
theorem outputOf_setPwm_then_latch {s : State} {mask : BitVec 32} (hoe : s.dev.oe = true)
    (hen : ∀ (g : Nat) (hg : g < 3), s.dev.enStage[g] = (encMask mask)[g].extractLsb' 0 6) (p : PwmVec) (c : Channel) :
    outputOf (respondOk [] (issue .latch .ok (issue (.setPwm p) .ok s))).dev c =
      if mask.getLsbD c.val then some p[c] else none := by
  rw [setPwm_then_latch]
  refine outputOf_of_latched_mask ?_ ?_ c
  · exact hoe
  · exact hen

/-- Settles O51: ENABLE sets the output-enable, ENABLE_LEDS stages the mask, and the latch of the last operation makes the
mask and the vector live; the tables are those of the start. -/
theorem bootSequenceDrivesTheOutputs : Obligations.BootSequenceDrivesTheOutputs := by
  intro s0 mask vals hl hok
  obtain ⟨v, hv, rfl⟩ := pwmVecOf_some hl
  refine ⟨_, _, exec_enable_ok (hok 0 (by decide)), exec_enableLeds_ok (by simp [hok]) (by simp [hok]) mask, rfl, ?_, ?_⟩
  · refine ⟨_, exec_outputRaw_ok hv (by simp [hok]) (by simp [hok]), fun c => ?_⟩
    rw [outputOf_setPwm_then_latch rfl (mask := mask) (fun g hg => by simp)]
    simp
  · refine ⟨_, exec_output_ok hv (by simp [hok]) (by simp [hok]), fun c => ?_⟩
    rw [outputOf_setPwm_then_latch rfl (mask := mask) (fun g hg => by simp)]
    simp

end Sys2Proof.Machine
end

section
/-! SUPPORT. What one operation adds to the bus log keeps the write-then-latch discipline (spec R48, R151) and the table of bus
commands (R42), so every step keeps both. -/

namespace Sys2Proof.Machine

/-! The latch discipline. -/

/-- What one operation adds is a log of its own that owes no latch (R151): a value-changing write that returned ok comes with
its latch. -/
theorem latchDiscipline_of_appended {log : List BusEvent} (h : Appended log) : latchDiscipline log = true := by
  cases h with
  | none => rfl
  | single k r h =>
    obtain ⟨on, rfl⟩ | rfl | ⟨⟨v, rfl⟩ | ⟨mask, rfl⟩, hr⟩ := h
    · rfl
    · rfl
    all_goals
      cases r with
      | ok => exact absurd rfl hr
      | fail | never => rfl
  | pair k r h => obtain ⟨v, rfl⟩ | ⟨mask, rfl⟩ := h <;> rfl

/-- Settles O36: a step appends a log that keeps the discipline to one that owes no latch. -/
theorem everyStepKeepsTheLatchDiscipline : Obligations.EveryStepKeepsTheLatchDiscipline := by
  intro s t hs h
  obtain ⟨log, hlog, ht⟩ := step_busLog h
  rw [State.busLatched, ht]
  exact latchFrom_append hs (latchDiscipline_of_appended hlog)

/-! The table of bus commands. -/

/-- The three commands whose payload has fixed values (R42), however the write was answered. -/
theorem inTable_of_fixed_payload {k : BusCmd} (h : (∃ on, k = .outputEnable on) ∨ k = .latch ∨ k = .deviceReset)
    (r : BusResult) : BusEvent.inTable ⟨Config.devAddr, k.code, k.payload, r⟩ = true := by
  obtain ⟨on, rfl⟩ | rfl | rfl := h
  · cases on <;> rfl
  · rfl
  · rfl

/-- Bits 7:6 of an encoded group byte are zero (R83, R101). -/
theorem encMask_toNat_lt (mask : BitVec 32) (g : Nat) (hg : g < 3) : (encMask mask)[g].toNat < 64 := by
  interval_cases g <;> simp [encMask] <;> omega

theorem inTable_of_valueCmd {k : BusCmd} (h : IsValueCmd k) (r : BusResult) :
    BusEvent.inTable ⟨Config.devAddr, k.code, k.payload, r⟩ = true := by
  obtain ⟨v, rfl⟩ | ⟨mask, rfl⟩ := h
  · simp [BusEvent.inTable, Config.devAddr, BusCmd.code, BusCmd.payload]
  · simpa [BusEvent.inTable, Config.devAddr, BusCmd.code, BusCmd.payload] using encMask_toNat_lt mask

theorem inTable_of_appended {log : List BusEvent} (h : Appended log) : log.all BusEvent.inTable = true := by
  cases h with
  | none => rfl
  | single k r h =>
    have hk : BusEvent.inTable ⟨Config.devAddr, k.code, k.payload, r⟩ = true := by
      obtain hk | hk | ⟨hk, _⟩ := h
      · exact inTable_of_fixed_payload (.inl hk) r
      · exact inTable_of_fixed_payload (.inr (.inr hk)) r
      · exact inTable_of_valueCmd hk r
    simpa using hk
  | pair k r h =>
    have hlatch : BusEvent.inTable ⟨Config.devAddr, 0x16, [0xFF], r⟩ = true :=
      inTable_of_fixed_payload (.inr (.inl rfl)) r
    rw [List.all_cons, List.all_cons, inTable_of_valueCmd h, hlatch]
    rfl

/-- Settles O37: a step appends writes of the table only. -/
theorem everyStepEmitsOnlyTableWrites : Obligations.EveryStepEmitsOnlyTableWrites := by
  intro s t hs h
  obtain ⟨log, hlog, ht⟩ := step_busLog h
  rw [State.busInTable, ht, List.all_append, Bool.and_eq_true]
  exact ⟨hs, inTable_of_appended hlog⟩

end Sys2Proof.Machine
end

section
/-! SUPPORT. The registers of the reference device as whole banks: which banks a command keeps when it succeeds and when it
fails (spec R50 to R58), that they act alike in software shutdown (R57), and that a table write leaves them (R219). -/

namespace Sys2Proof.Machine

/-- Two devices with the same banks are the same. -/
theorem device_eq_of_banks {a b : Device} (hoe : a.oe = b.oe) (hpwmStage : a.pwmStage = b.pwmStage)
    (hpwmLive : a.pwmLive = b.pwmLive) (henStage : a.enStage = b.enStage) (henLive : a.enLive = b.enLive) : a = b := by
  cases a
  cases b
  simp_all

/-! A command that succeeds. -/

/-- Settles O48, by what each command does. -/
theorem deviceTakesItsCommands : Obligations.DeviceTakesItsCommands :=
  fun _ _ _ _ => ⟨rfl, rfl, ⟨_, rfl, fun g => by simp⟩, rfl⟩

/-- A second reset changes no live register: it keeps the value or takes the power-on value as the first one did. -/
theorem accept_deviceReset_idempotent (d : Device) :
    accept .deviceReset (accept .deviceReset d) = accept .deviceReset d := by
  refine device_eq_of_banks rfl rfl (Vector.ext fun k hk => ?_) rfl (Vector.ext fun g hg => ?_)
  · rw [accept_deviceReset_pwmLive, accept_deviceReset_pwmLive]
    split <;> rfl
  · rw [accept_deviceReset_enLive, accept_deviceReset_enLive]
    split <;> rfl

/-- Settles O47: a write stores the payload it carries, and the latch and the reset find their own result. -/
theorem deviceCommandsAreIdempotent : Obligations.DeviceCommandsAreIdempotent := by
  intro c d
  cases c with
  | outputEnable | setPwm | enableChannels | latch => rfl
  | deviceReset => exact accept_deviceReset_idempotent d

/-- Only a 0x00 write reads or changes the output-enable (R51, R57). -/
theorem accept_with_oe {c : BusCmd} (hc : ∀ on, c ≠ .outputEnable on) (d : Device) (oe : Bool) :
    accept c { d with oe := oe } = { accept c d with oe := oe } := by
  cases c with
  | outputEnable on => exact absurd rfl (hc on)
  | setPwm | enableChannels | latch | deviceReset => rfl

theorem accept_oe {c : BusCmd} (hc : ∀ on, c ≠ .outputEnable on) (d : Device) : (accept c d).oe = d.oe := by
  have h : accept c d = { accept c d with oe := d.oe } := accept_with_oe hc d d.oe
  rw [h]

/-- Settles O50: an output needs the output-enable, which no command but 0x00 reads or changes. -/
theorem shutdownKeepsRegisters : Obligations.ShutdownKeepsRegisters := by
  refine fun d => ⟨fun c => ?_, fun c => ?_, fun c hc => ?_, rfl⟩
  · simp [outputOf]
  · simp [outputOf]
  · rw [accept_with_oe hc d false, accept_with_oe hc d true]

/-! A command that fails (R58). -/

theorem afterFailed_eq_mix {c : BusCmd} (hc : ∀ on, c ≠ .outputEnable on) (n : Nat) (d : Device) :
    afterFailed n c d = mixDevices (Config.draw n) d (accept c d) := by
  cases c with
  | outputEnable on => exact absurd rfl (hc on)
  | setPwm | enableChannels | latch | deviceReset => rfl

/-- Each register has its old value or the one it has after a success. -/
theorem between_afterFailed {c : BusCmd} (hc : ∀ on, c ≠ .outputEnable on) (n : Nat) (d : Device) :
    BetweenDevices d (accept c d) (afterFailed n c d) := by
  rw [afterFailed_eq_mix hc]
  exact between_mix _ _ _

theorem afterFailed_oe {c : BusCmd} (hc : ∀ on, c ≠ .outputEnable on) (n : Nat) (d : Device) :
    (afterFailed n c d).oe = d.oe := by
  obtain ⟨h | h, -⟩ := between_afterFailed hc n d
  · exact h
  · exact h.trans (accept_oe hc d)

/-- Settles O49: a failed command draws between the old device and the one a success leaves, so it keeps every bank that a
success keeps. -/
theorem failedWriteLeavesRegistersOldOrNew : Obligations.FailedWriteLeavesRegistersOldOrNew := by
  refine fun n d => ⟨fun on => ⟨_, rfl⟩, fun c hc => between_afterFailed hc n d, fun v => ?_, fun b => ?_, ?_,
    afterFailed_oe (by simp) n d⟩
  · exact device_eq_of_banks (afterFailed_oe (by simp) n d) rfl (mix_pwmLive_same _ rfl) (mix_enStage_same _ rfl)
      (mix_enLive_same _ rfl)
  · exact device_eq_of_banks (afterFailed_oe (by simp) n d) (mix_pwmStage_same _ rfl) (mix_pwmLive_same _ rfl) rfl
      (mix_enLive_same _ rfl)
  · exact device_eq_of_banks (afterFailed_oe (by simp) n d) (mix_pwmStage_same _ rfl) rfl (mix_enStage_same _ rfl) rfl

/-! A latch that failed keeps the stage banks, and leaves each live register as it was or makes it the staged one (R54, R58). -/

theorem afterFailed_latch_pwmStage (n : Nat) (d : Device) : (afterFailed n .latch d).pwmStage = d.pwmStage :=
  mix_pwmStage_same _ rfl

theorem afterFailed_latch_enStage (n : Nat) (d : Device) : (afterFailed n .latch d).enStage = d.enStage :=
  mix_enStage_same _ rfl

theorem afterFailed_latch_pwmLive (n : Nat) (d : Device) (k : Fin 18) :
    (afterFailed n .latch d).pwmLive[k] = d.pwmLive[k] ∨
      (afterFailed n .latch d).pwmLive[k] = (afterFailed n .latch d).pwmStage[k] := by
  obtain ⟨-, -, hlive, -, -⟩ := between_afterFailed (c := .latch) (by simp) n d
  rw [afterFailed_latch_pwmStage]
  exact hlive k

theorem afterFailed_latch_enLive (n : Nat) (d : Device) (g : Fin 3) :
    (afterFailed n .latch d).enLive[g] = d.enLive[g] ∨
      (afterFailed n .latch d).enLive[g] = (afterFailed n .latch d).enStage[g] := by
  obtain ⟨-, -, -, -, hlive⟩ := between_afterFailed (c := .latch) (by simp) n d
  rw [afterFailed_latch_enStage]
  exact hlive g

/-! The table writers leave the device (R219). -/

/-- The three writers of GLUT are not operations of CTL (R19). -/
theorem isCtl_eq_false_of_writesGlut {i : Instr} (h : writesGlut i = true) : isCtl i = false := by
  cases i with
  | setChannelCurve | resetToShared | regenDefault => rfl
  | enable | disable | reset | enableLeds | output | outputRaw | encodeMask | encodePwm | generateCurve | correct => cases h

/-- Settles O44: a table writer touches no device register, so no output changes. -/
theorem tableChangesAreNotRetroactive : Obligations.TableChangesAreNotRetroactive := by
  intro i s t hi h
  have hdev : t.dev = s.dev := by rw [exec_frame_of_not_ctl (isCtl_eq_false_of_writesGlut hi) h]
  exact ⟨hdev, fun c => by rw [hdev]⟩

end Sys2Proof.Machine
end

section
/-! SUPPORT. The CTL operations by the answers of the transport (spec R151 to R158): a first write that returned ok, failed or
never returns, a latch that failed or never returns, and what a later latch commits (R218). -/

namespace Sys2Proof.Machine

/-! ENABLE and DISABLE. -/

/-- Settles O29, by the two answers of its one write. -/
theorem enableWritesThenSetsTheFlag : Obligations.EnableWritesThenSetsTheFlag :=
  fun _ => ⟨exec_enable_ok, fun h => ⟨_, congrArg Host.Outcome.next (busWrite_fail h)⟩, rfl, fun _ _ => rfl⟩

theorem exec_disable_ok {s : State} (h : s.reply 0 = .ok) :
    exec .disable s = .next (respondOk [] (setEnabled false (issue (.outputEnable false) .ok s))) :=
  congrArg Host.Outcome.next (busWrite_ok h)

/-- Settles O30, by the two answers of its one write. -/
theorem disableWritesThenClearsTheFlag : Obligations.DisableWritesThenClearsTheFlag :=
  fun _ => ⟨exec_disable_ok, fun h => ⟨_, congrArg Host.Outcome.next (busWrite_fail h)⟩, rfl, fun _ _ => rfl⟩

/-! RESET. -/

/-- Settles O31: the device of the statement is the one that accepted the reset. -/
theorem resetWritesTheDeviceAndNoBlockState : Obligations.ResetWritesTheDeviceAndNoBlockState := by
  intro s
  refine ⟨accept .deviceReset s.dev, rfl, rfl, rfl, fun k => ?_, fun g => ?_, fun h => ?_, fun h => ?_, rfl, fun _ _ => rfl⟩
  · exact accept_deviceReset_pwmLive s.dev k k.isLt
  · exact accept_deviceReset_enLive s.dev g g.isLt
  · exact congrArg Host.Outcome.next (busWrite_ok h)
  · exact ⟨_, between_afterFailed (by simp) s.draws s.dev, congrArg Host.Outcome.next (busWrite_fail h)⟩

/-! The register write of a write-then-latch operation. -/

theorem WritesThenLatches.isValueCmd {s : State} {i : Instr} {c : BusCmd} (h : WritesThenLatches s i c) : IsValueCmd c := by
  rcases h with ⟨mask, -, rfl⟩ | ⟨vals, v, -, ⟨-, rfl⟩ | ⟨-, rfl⟩⟩
  · exact .inr ⟨mask, rfl⟩
  · exact .inl ⟨_, rfl⟩
  · exact .inl ⟨v, rfl⟩

theorem IsValueCmd.ne_outputEnable {c : BusCmd} (h : IsValueCmd c) (on : Bool) : c ≠ .outputEnable on := by
  rcases h with ⟨v, rfl⟩ | ⟨mask, rfl⟩ <;> simp

/-- A value-changing write fills a stage bank and leaves the live registers (R52, R53). -/
theorem IsValueCmd.accept_live {c : BusCmd} (h : IsValueCmd c) (d : Device) :
    (accept c d).pwmLive = d.pwmLive ∧ (accept c d).enLive = d.enLive := by
  rcases h with ⟨v, rfl⟩ | ⟨mask, rfl⟩ <;> exact ⟨rfl, rfl⟩

/-- The stage banks after a command depend on the stage banks before it alone. -/
theorem accept_stage_congr (c : BusCmd) {d e : Device} (hp : d.pwmStage = e.pwmStage) (he : d.enStage = e.enStage) :
    (accept c d).pwmStage = (accept c e).pwmStage ∧ (accept c d).enStage = (accept c e).enStage := by
  cases c with
  | outputEnable | latch => exact ⟨hp, he⟩
  | setPwm => exact ⟨rfl, he⟩
  | enableChannels => exact ⟨hp, rfl⟩
  | deviceReset => exact ⟨rfl, rfl⟩

/-- In the enable bits that an encoded mask stages, that of channel `k` is mask bit `k` (R53, R101). -/
theorem getLsbD_of_staged_encMask {en : Vector (BitVec 6) 3} {mask : BitVec 32} {d : Device}
    (h : en = (accept (.enableChannels (encMask mask)) d).enStage) {k : Nat} (hk : k < 18) :
    (en[k / 6]'(by omega)).getLsbD (k % 6) = mask.getLsbD k := by
  subst h
  rw [accept_enableChannels_enStage, getLsbD_group_encMask mask (by omega) (by omega), Nat.div_add_mod]

/-! The endings of a write-then-latch operation. -/

/-- Settles O32: the staged enable bits are the mask's, and the latch makes both stage banks live. -/
theorem enableLedsSendsTheMaskAndLatches : Obligations.EnableLedsSendsTheMaskAndLatches := by
  refine fun mask s h0 h1 => ⟨(accept (.enableChannels (encMask mask)) s.dev).enStage, fun g b hb => ?_, ?_⟩
  · simpa using getLsbD_group_encMask mask g.isLt hb
  · rw [exec_enableLeds_ok h0 h1, List.append_cons s.busLog]
    rfl

/-- The six operations that write begin with one bus write (R152 to R157). -/
theorem exec_first_write {s : State} {i : Instr} {c : BusCmd}
    (h : i = .enable ∧ c = .outputEnable true ∨ i = .disable ∧ c = .outputEnable false ∨ i = .reset ∧ c = .deviceReset ∨
      WritesThenLatches s i c) :
    ∃ k, exec i s = .next (busWrite c k s) := by
  obtain ⟨rfl, rfl⟩ | ⟨rfl, rfl⟩ | ⟨rfl, rfl⟩ | h := h
  · exact ⟨_, rfl⟩
  · exact ⟨_, rfl⟩
  · exact ⟨_, rfl⟩
  · exact ⟨_, exec_writeThenLatch h⟩

theorem exec_latch_fail {s : State} {i : Instr} {c : BusCmd} (h : WritesThenLatches s i c) (h0 : s.reply 0 = .ok)
    (h1 : s.reply 1 = .fail) : exec i s = .next (raise (.transport 0x16) (issue .latch .fail (issue c .ok s))) := by
  rw [exec_writeThenLatch h, writeThenLatch_latch_fail h0 h1]

/-- Settles O13: the first write, or the latch after a register write that returned ok, is the last thing done. -/
theorem unreturnedWriteGivesNoResponse : Obligations.UnreturnedWriteGivesNoResponse := by
  refine ⟨fun s i c h0 h => ?_, fun s i c h h0 h1 => ⟨_, rfl, ?_, ?_, ?_, ?_⟩⟩
  · obtain ⟨k, hk⟩ := exec_first_write h
    rw [hk, busWrite_never h0]
    rfl
  · exact afterFailed_latch_pwmStage _ _
  · exact afterFailed_latch_enStage _ _
  · exact (afterFailed_oe (by simp) _ _).trans (accept_oe h.isValueCmd.ne_outputEnable s.dev)
  · rw [exec_writeThenLatch h, writeThenLatch_latch_never h0 h1, List.append_cons s.busLog]
    rfl

/-- Settles O35: each failed write is answered at once, and the device lies between those before and after that write. -/
theorem failedWriteEndsWriteThenLatch : Obligations.FailedWriteEndsWriteThenLatch := by
  intro s i c h
  have h : WritesThenLatches s i c := h
  refine ⟨fun h0 => ⟨_, between_afterFailed h.isValueCmd.ne_outputEnable s.draws s.dev, ?_⟩,
    fun h0 h1 => ⟨_, between_afterFailed (c := .latch) (by simp) s.draws (accept c s.dev), ?_⟩⟩
  · rw [exec_writeThenLatch h, writeThenLatch_fail h0]
    rfl
  · rw [exec_latch_fail h h0 h1, List.append_cons s.busLog]
    rfl

/-- Settles O52: the failed latch keeps the stage banks, and a later latch commits them with the write made over them. -/
theorem nextLatchCommitsTheStaleWrite : Obligations.NextLatchCommitsTheStaleWrite := by
  intro s i c h h0 h1
  obtain ⟨hlive, henLive⟩ := h.isValueCmd.accept_live s.dev
  have hpwmStage := afterFailed_latch_pwmStage s.draws (accept c s.dev)
  have henStage := afterFailed_latch_enStage s.draws (accept c s.dev)
  refine ⟨_, exec_latch_fail h h0 h1, rfl, hpwmStage, henStage, ?_, ?_, ?_⟩
  · rw [← hlive]
    exact afterFailed_latch_pwmLive s.draws (accept c s.dev)
  · rw [← henLive]
    exact afterFailed_latch_enLive s.draws (accept c s.dev)
  intro s2 j c2 hp he h2 h20 h21
  obtain ⟨hp3, he3⟩ := accept_stage_congr c2 (hp.trans hpwmStage) (he.trans henStage)
  refine ⟨_, exec_writeThenLatch_ok h2 h20 h21, hp3, he3, ?_, ?_⟩
  · rintro mask v rfl rfl
    exact ⟨hp3, fun k => getLsbD_of_staged_encMask (d := s.dev) he3 k.isLt⟩
  · rintro mask v rfl rfl
    exact ⟨hp3, fun k => getLsbD_of_staged_encMask he3 k.isLt⟩

end Sys2Proof.Machine
end

section
/-! SUPPORT. Fields of more than one byte are little-endian sums (spec R45, R72 to R77), and a bus command is read back from its
code and payload (R42, R82 to R84). -/

namespace Sys2Proof.Machine

/-! Operands of request frames. -/

theorem toNat_append_eq_add {m n : Nat} (hi : BitVec m) (lo : BitVec n) :
    (hi ++ lo).toNat = lo.toNat + 2 ^ n * hi.toNat := by
  rw [BitVec.toNat_append, ← Nat.shiftLeft_add_eq_or_of_lt lo.isLt, Nat.shiftLeft_eq, Nat.mul_comm, Nat.add_comm]

theorem le16_toNat (l0 l1 : Byte) : (le16 l0 l1).toNat = l0.toNat + 2 ^ 8 * l1.toNat :=
  toNat_append_eq_add l1 l0

theorem le32_toNat (m0 m1 m2 m3 : Byte) :
    (le32 m0 m1 m2 m3).toNat = m0.toNat + 2 ^ 8 * m1.toNat + 2 ^ 16 * m2.toNat + 2 ^ 24 * m3.toNat := by
  simp only [le32, toNat_append_eq_add]
  omega

theorem le64_toNat (x0 x1 x2 x3 x4 x5 x6 x7 : Byte) :
    (le64 x0 x1 x2 x3 x4 x5 x6 x7).toNat = x0.toNat + 2 ^ 8 * x1.toNat + 2 ^ 16 * x2.toNat + 2 ^ 24 * x3.toNat +
      2 ^ 32 * x4.toNat + 2 ^ 40 * x5.toNat + 2 ^ 48 * x6.toNat + 2 ^ 56 * x7.toNat := by
  simp only [le64, toNat_append_eq_add]
  omega

/-- A frame decodes to the instruction whose opcode it starts with and whose operands follow (R80). -/
theorem decode_of_decodeBody {op : Byte} {body : Frame} {o : Op} {i : Instr} (ho : Op.ofCode op = some o)
    (hb : decodeBody o body = some i) : decode (op :: body) = .ok i := by
  simp only [decode, ho, hb]

theorem bodyV_of_length {len : Byte} {vals : List Byte} (h : vals.length = len.toNat) (mk : List Byte → Instr) :
    bodyV mk (len :: vals) = some (mk vals) :=
  if_pos h

theorem bodyC_of_length {l0 l1 : Byte} {ents : List Byte} (h : ents.length = l0.toNat + 2 ^ 8 * l1.toNat)
    (mk : Byte → List Byte → Instr) (ch : Byte) : bodyC mk (ch :: l0 :: l1 :: ents) = some (mk ch ents) :=
  if_pos (h.trans (le16_toNat l0 l1).symm)

/-- Settles O4, by the sum of the bytes for masks and exponents and by the LEN field for value lists. -/
theorem operandsAreAssembledLittleEndian : Obligations.OperandsAreAssembledLittleEndian := by
  refine ⟨fun m0 m1 m2 m3 => ⟨_, le32_toNat m0 m1 m2 m3, rfl, rfl⟩,
    fun x0 x1 x2 x3 x4 x5 x6 x7 => ⟨_, le64_toNat x0 x1 x2 x3 x4 x5 x6 x7, rfl, rfl, rfl⟩,
    fun len vals h => ⟨?_, ?_, ?_⟩, fun ch l0 l1 ents h => ?_, fun _ _ => rfl⟩
  · exact decode_of_decodeBody (o := .output) rfl (bodyV_of_length h _)
  · exact decode_of_decodeBody (o := .outputRaw) rfl (bodyV_of_length h _)
  · exact decode_of_decodeBody (o := .encodePwm) rfl (bodyV_of_length h _)
  · exact decode_of_decodeBody (o := .setChannelCurve) rfl (bodyC_of_length h _ ch)

/-! Bus commands on the wire. -/

/-- Settles O6: the code tells the command, and its payload holds the values. -/
theorem busCommandsReadBackFromTheWire : Obligations.BusCommandsReadBackFromTheWire := by
  intro c
  cases c with
  | outputEnable on => cases on <;> rfl
  | setPwm v => exact dif_pos v.length_toList
  | enableChannels b => exact dif_pos b.length_toList
  | latch | deviceReset => rfl

end Sys2Proof.Machine
end

section
/-! SUPPORT. Request frames (spec R70 to R80): each format reads back exactly what it writes, so decoder and encoder are
inverse on well-formed instructions; which frames decode is a matter of opcode and length alone. -/

namespace Sys2Proof

open Machine

/-! Fields of more than one byte (R45, R72 to R75). -/

theorem byteOf_toNat {w : Nat} (v : BitVec w) (k : Nat) : (byteOf v k).toNat = v.toNat / 2 ^ (8 * k) % 2 ^ 8 := by
  simp [byteOf, Nat.shiftRight_eq_div_pow]

theorem byteOf_zero (b : Byte) : byteOf b 0 = b :=
  BitVec.extractLsb'_eq_self

theorem byteOf_append_zero {w : Nat} (hi : BitVec w) (lo : Byte) : byteOf (hi ++ lo) 0 = lo := by
  apply BitVec.eq_of_toNat_eq
  rw [byteOf_toNat, toNat_append_eq_add]
  omega

theorem byteOf_append_succ {w : Nat} (hi : BitVec w) (lo : Byte) (k : Nat) :
    byteOf (hi ++ lo) (k + 1) = byteOf hi k := by
  apply BitVec.eq_of_toNat_eq
  rw [byteOf_toNat, byteOf_toNat, toNat_append_eq_add, Nat.mul_succ, Nat.add_comm (8 * k), Nat.pow_add,
    ← Nat.div_div_eq_div_mul]
  congr 2
  omega

theorem toNat_ofNat_of_lt {w n : Nat} (h : n < 2 ^ w) : (BitVec.ofNat w n).toNat = n := by
  rw [BitVec.toNat_ofNat, Nat.mod_eq_of_lt h]

theorem bytes32_le32 (m0 m1 m2 m3 : Byte) : bytes32 (le32 m0 m1 m2 m3) = [m0, m1, m2, m3] := by
  simp only [bytes32, le32, byteOf_append_zero, byteOf_append_succ, byteOf_zero]

theorem bytes64_le64 (x0 x1 x2 x3 x4 x5 x6 x7 : Byte) :
    bytes64 (le64 x0 x1 x2 x3 x4 x5 x6 x7) = [x0, x1, x2, x3, x4, x5, x6, x7] := by
  simp only [bytes64, le64, byteOf_append_zero, byteOf_append_succ, byteOf_zero]

theorem le16_byteOf (v : BitVec 16) : le16 (byteOf v 0) (byteOf v 1) = v := by
  apply BitVec.eq_of_toNat_eq
  simp only [le16_toNat, byteOf_toNat]
  omega

theorem le32_byteOf (v : BitVec 32) : le32 (byteOf v 0) (byteOf v 1) (byteOf v 2) (byteOf v 3) = v := by
  apply BitVec.eq_of_toNat_eq
  simp only [le32_toNat, byteOf_toNat]
  omega

theorem le64_byteOf (v : BitVec 64) :
    le64 (byteOf v 0) (byteOf v 1) (byteOf v 2) (byteOf v 3) (byteOf v 4) (byteOf v 5) (byteOf v 6) (byteOf v 7) = v := by
  apply BitVec.eq_of_toNat_eq
  simp only [le64_toNat, byteOf_toNat]
  omega

/-! What each format reads: exactly the bytes that the encoder writes (R71 to R76). -/

theorem bodyN_eq_some_iff {i j : Instr} {body : Frame} : bodyN i body = some j ↔ j = i ∧ body = [] := by
  cases body <;> simp [bodyN, eq_comm]

theorem bodyM_eq_some_iff {mk : BitVec 32 → Instr} {body : Frame} {i : Instr} :
    bodyM mk body = some i ↔ ∃ mask, i = mk mask ∧ body = bytes32 mask := by
  constructor
  · intro h
    unfold bodyM at h
    split at h <;> cases h
    exact ⟨_, rfl, (bytes32_le32 ..).symm⟩
  · rintro ⟨mask, rfl, rfl⟩
    simp only [bytes32, bodyM, le32_byteOf]

theorem bodyV_eq_some_iff {mk : List Byte → Instr} {body : Frame} {i : Instr} :
    bodyV mk body = some i ↔ ∃ vals, i = mk vals ∧ vals.length < 256 ∧ body = encodeV vals := by
  constructor
  · intro h
    unfold bodyV at h
    split at h
    · next len vals =>
      split at h <;> cases h
      next hl => exact ⟨vals, rfl, hl ▸ len.isLt, by rw [encodeV, hl, BitVec.ofNat_toNat, BitVec.setWidth_eq]⟩
    · cases h
  · rintro ⟨vals, rfl, hlt, rfl⟩
    exact bodyV_of_length (toNat_ofNat_of_lt hlt).symm mk

theorem bodyC_eq_some_iff {mk : Byte → List Byte → Instr} {body : Frame} {i : Instr} :
    bodyC mk body = some i ↔ ∃ ch ents, i = mk ch ents ∧ ents.length < 65536 ∧
      body = encodeBody (.setChannelCurve ch ents) := by
  constructor
  · intro h
    unfold bodyC at h
    split at h
    · next ch l0 l1 ents =>
      split at h <;> cases h
      next hl =>
        refine ⟨ch, ents, rfl, hl ▸ (le16 l0 l1).isLt, ?_⟩
        simp only [encodeBody, hl, BitVec.ofNat_toNat, BitVec.setWidth_eq, le16, byteOf_append_zero, byteOf_append_succ,
          byteOf_zero]
    · cases h
  · rintro ⟨ch, ents, rfl, hlt, rfl⟩
    refine if_pos ?_
    rw [le16_byteOf, toNat_ofNat_of_lt hlt]

theorem bodyE_eq_some_iff {mk : BitVec 64 → Instr} {body : Frame} {i : Instr} :
    bodyE mk body = some i ↔ ∃ exp, i = mk exp ∧ body = bytes64 exp := by
  constructor
  · intro h
    unfold bodyE at h
    split at h <;> cases h
    exact ⟨_, rfl, (bytes64_le64 ..).symm⟩
  · rintro ⟨exp, rfl, rfl⟩
    simp only [bytes64, bodyE, le64_byteOf]

theorem bodyL_eq_some_iff {mk : Byte → Byte → Instr} {body : Frame} {i : Instr} :
    bodyL mk body = some i ↔ ∃ ch raw, i = mk ch raw ∧ body = [ch, raw] := by
  constructor
  · intro h
    unfold bodyL at h
    split at h <;> cases h
    exact ⟨_, _, rfl, rfl⟩
  · rintro ⟨ch, raw, rfl, rfl⟩
    rfl

/-! The decoder and the encoder are inverse. -/

theorem decodeBody_encodeBody {i : Instr} (h : i.wellFormed = true) : decodeBody i.op (encodeBody i) = some i := by
  cases i with
  | enable | disable | reset => rfl
  | enableLeds mask | encodeMask mask => exact bodyM_eq_some_iff.mpr ⟨mask, rfl, rfl⟩
  | output vals | outputRaw vals | encodePwm vals => exact bodyV_eq_some_iff.mpr ⟨vals, rfl, of_decide_eq_true h, rfl⟩
  | setChannelCurve ch ents => exact bodyC_eq_some_iff.mpr ⟨ch, ents, rfl, of_decide_eq_true h, rfl⟩
  | resetToShared exp | regenDefault exp | generateCurve exp => exact bodyE_eq_some_iff.mpr ⟨exp, rfl, rfl⟩
  | correct ch raw => rfl

theorem encodeBody_of_decodeBody {o : Op} {body : Frame} {i : Instr} (h : decodeBody o body = some i) :
    i.op = o ∧ encodeBody i = body ∧ i.wellFormed = true := by
  cases o with
  | enable | disable | reset =>
    obtain ⟨rfl, rfl⟩ := bodyN_eq_some_iff.mp h
    exact ⟨rfl, rfl, rfl⟩
  | enableLeds | encodeMask =>
    obtain ⟨mask, rfl, rfl⟩ := bodyM_eq_some_iff.mp h
    exact ⟨rfl, rfl, rfl⟩
  | output | outputRaw | encodePwm =>
    obtain ⟨vals, rfl, hlt, rfl⟩ := bodyV_eq_some_iff.mp h
    exact ⟨rfl, rfl, decide_eq_true hlt⟩
  | setChannelCurve =>
    obtain ⟨ch, ents, rfl, hlt, rfl⟩ := bodyC_eq_some_iff.mp h
    exact ⟨rfl, rfl, decide_eq_true hlt⟩
  | resetToShared | regenDefault | generateCurve =>
    obtain ⟨exp, rfl, rfl⟩ := bodyE_eq_some_iff.mp h
    exact ⟨rfl, rfl, rfl⟩
  | correct =>
    obtain ⟨ch, raw, rfl, rfl⟩ := bodyL_eq_some_iff.mp h
    exact ⟨rfl, rfl, rfl⟩

theorem code_of_ofCode {op : Byte} {o : Op} (h : Op.ofCode op = some o) : o.code = op := by
  unfold Op.ofCode at h
  split at h <;> cases h <;> exact BitVec.eq_of_toNat_eq (Eq.symm ‹_›)

/-- The bytes that name no operation (R79). -/
theorem ofCode_eq_none_iff {op : Byte} : Op.ofCode op = none ↔ op = 0x00 ∨ 0x0E ≤ op.toNat := by
  have hzero : op = 0x00 ↔ op.toNat = 0 := BitVec.toNat_inj.symm
  unfold Op.ofCode
  split <;> grind

theorem decode_of_ofCode_none {op : Byte} (h : Op.ofCode op = none) (body : Frame) :
    decode (op :: body) = .error (.illegalOpcode op) := by
  simp only [decode, h]

theorem decode_of_decodeBody_none {op : Byte} {body : Frame} {o : Op} (ho : Op.ofCode op = some o)
    (hb : decodeBody o body = none) : decode (op :: body) = .error (.invalidArgument .badLength) := by
  simp only [decode, ho, hb]

/-- Everything the decoder can answer (R80). -/
theorem decode_cases (f : Frame) :
    (f = [] ∧ decode f = .error (.invalidArgument .badLength)) ∨
    (∃ op body, f = op :: body ∧ Op.ofCode op = none ∧ decode f = .error (.illegalOpcode op)) ∨
    (∃ op body o, f = op :: body ∧ Op.ofCode op = some o ∧ decodeBody o body = none ∧
      decode f = .error (.invalidArgument .badLength)) ∨
    (∃ op body o i, f = op :: body ∧ Op.ofCode op = some o ∧ decodeBody o body = some i ∧ decode f = .ok i) := by
  rcases f with _ | ⟨op, body⟩
  · exact .inl ⟨rfl, rfl⟩
  cases ho : Op.ofCode op with
  | none => exact .inr (.inl ⟨op, body, rfl, ho, decode_of_ofCode_none ho body⟩)
  | some o =>
    cases hb : decodeBody o body with
    | none => exact .inr (.inr (.inl ⟨op, body, o, rfl, ho, hb, decode_of_decodeBody_none ho hb⟩))
    | some i => exact .inr (.inr (.inr ⟨op, body, o, i, rfl, ho, hb, decode_of_decodeBody ho hb⟩))

/-- Settles O1: the opcode byte names the instruction's row, whose format reads back the operands it writes. -/
theorem decodeEncodeRoundTrip : Obligations.DecodeEncodeRoundTrip :=
  fun i h => decode_of_decodeBody (Laws.ofCode_code i.op) (decodeBody_encodeBody h)

/-- Settles O2: a frame that decodes has the opcode byte of its row and the operand bytes that the encoder writes. -/
theorem encodeDecodeRoundTrip : Obligations.EncodeDecodeRoundTrip := by
  intro f i h
  rcases decode_cases f with ⟨-, e⟩ | ⟨_, _, -, -, e⟩ | ⟨_, _, _, -, -, -, e⟩ | ⟨op, body, o, j, rfl, ho, hb, e⟩ <;>
    rw [e] at h <;> cases h
  obtain ⟨rfl, hbody, hwf⟩ := encodeBody_of_decodeBody hb
  exact ⟨by rw [encode, hbody, code_of_ofCode ho], hwf⟩

/-- Settles O3, by decoding each frame. -/
theorem sampleFramesDecode : Obligations.SampleFramesDecode :=
  ⟨rfl, rfl, rfl, rfl, rfl, rfl, rfl⟩

/-! Which frames decode. -/

/-- The bytes after the opcode have the length of the format (R71 to R76). -/
def Format.Fits : Format → Frame → Prop
  | .n, body => body.length = 0
  | .m, body => body.length = 4
  | .v, body => ∃ len vals, body = len :: vals ∧ vals.length = len.toNat
  | .c, body => ∃ ch l0 l1 ents, body = ch :: l0 :: l1 :: ents ∧ ents.length = l0.toNat + 256 * l1.toNat
  | .e, body => body.length = 8
  | .l, body => body.length = 2

theorem exists_bodyN_iff {i : Instr} {body : Frame} : (∃ j, bodyN i body = some j) ↔ body.length = 0 := by
  simp [bodyN_eq_some_iff]

theorem exists_bodyM_iff {mk : BitVec 32 → Instr} {body : Frame} :
    (∃ i, bodyM mk body = some i) ↔ body.length = 4 := by
  constructor
  · rintro ⟨i, h⟩
    obtain ⟨mask, -, rfl⟩ := bodyM_eq_some_iff.mp h
    rfl
  · intro h
    match body, h with
    | [_, _, _, _], _ => exact ⟨_, rfl⟩

theorem exists_bodyV_iff {mk : List Byte → Instr} {body : Frame} :
    (∃ i, bodyV mk body = some i) ↔ Format.Fits .v body := by
  constructor
  · rintro ⟨i, h⟩
    obtain ⟨vals, -, hlt, rfl⟩ := bodyV_eq_some_iff.mp h
    exact ⟨_, vals, rfl, (toNat_ofNat_of_lt hlt).symm⟩
  · rintro ⟨len, vals, rfl, hl⟩
    exact ⟨_, bodyV_of_length hl mk⟩

theorem exists_bodyC_iff {mk : Byte → List Byte → Instr} {body : Frame} :
    (∃ i, bodyC mk body = some i) ↔ Format.Fits .c body := by
  constructor
  · rintro ⟨i, h⟩
    obtain ⟨ch, ents, -, hlt, rfl⟩ := bodyC_eq_some_iff.mp h
    refine ⟨ch, _, _, ents, rfl, ?_⟩
    have hsum := le16_toNat (byteOf (BitVec.ofNat 16 ents.length) 0) (byteOf (BitVec.ofNat 16 ents.length) 1)
    rwa [le16_byteOf, toNat_ofNat_of_lt hlt] at hsum
  · rintro ⟨ch, l0, l1, ents, rfl, hl⟩
    exact ⟨_, bodyC_of_length hl mk ch⟩

theorem exists_bodyE_iff {mk : BitVec 64 → Instr} {body : Frame} :
    (∃ i, bodyE mk body = some i) ↔ body.length = 8 := by
  constructor
  · rintro ⟨i, h⟩
    obtain ⟨exp, -, rfl⟩ := bodyE_eq_some_iff.mp h
    rfl
  · intro h
    match body, h with
    | [_, _, _, _, _, _, _, _], _ => exact ⟨_, rfl⟩

theorem exists_bodyL_iff {mk : Byte → Byte → Instr} {body : Frame} :
    (∃ i, bodyL mk body = some i) ↔ body.length = 2 := by
  simp [bodyL_eq_some_iff, List.length_eq_two]

theorem exists_decodeBody_iff {o : Op} {body : Frame} :
    (∃ i, decodeBody o body = some i) ↔ o.format.Fits body := by
  cases o with
  | enable | disable | reset => exact exists_bodyN_iff
  | enableLeds | encodeMask => exact exists_bodyM_iff
  | output | outputRaw | encodePwm => exact exists_bodyV_iff
  | setChannelCurve => exact exists_bodyC_iff
  | resetToShared | regenDefault | generateCurve => exact exists_bodyE_iff
  | correct => exact exists_bodyL_iff

theorem decode_of_fits {op : Byte} {body : Frame} {o : Op} (ho : Op.ofCode op = some o) (h : o.format.Fits body) :
    ∃ i, decode (op :: body) = .ok i := by
  obtain ⟨i, hi⟩ := exists_decodeBody_iff.mpr h
  exact ⟨i, decode_of_decodeBody ho hi⟩

theorem decode_of_not_fits {op : Byte} {body : Frame} {o : Op} (ho : Op.ofCode op = some o) (h : ¬ o.format.Fits body) :
    decode (op :: body) = .error (.invalidArgument .badLength) := by
  refine decode_of_decodeBody_none ho (Option.eq_none_iff_forall_ne_some.mpr fun i hi => h ?_)
  exact exists_decodeBody_iff.mp ⟨i, hi⟩

/-- The opcodes of a format (R78). -/
def Format.opcodes : Format → List Byte
  | .n => [0x01, 0x02, 0x03]
  | .m => [0x04, 0x0A]
  | .v => [0x05, 0x06, 0x0B]
  | .c => [0x07]
  | .e => [0x08, 0x09, 0x0C]
  | .l => [0x0D]

theorem mem_opcodes_iff {op : Byte} {fmt : Format} : op ∈ fmt.opcodes ↔ ∃ o, Op.ofCode op = some o ∧ o.format = fmt := by
  constructor
  · have h : ∀ op ∈ fmt.opcodes, (Op.ofCode op).map Op.format = some fmt := by cases fmt <;> decide
    exact fun hop => Option.map_eq_some_iff.mp (h op hop)
  · rintro ⟨o, ho, rfl⟩
    rw [← code_of_ofCode ho]
    cases o <;> decide

theorem exists_format_iff {p : Format → Prop} : (∃ fmt, p fmt) ↔ p .n ∨ p .m ∨ p .v ∨ p .c ∨ p .e ∨ p .l := by
  constructor
  · rintro ⟨fmt, h⟩
    cases fmt <;> simp [h]
  · rintro (h | h | h | h | h | h) <;> exact ⟨_, h⟩

/-- A legal opcode is of one format, so the frame fits one of the six exactly when it fits that of its operation. -/
theorem fits_some_format_iff {op : Byte} {o : Op} (ho : Op.ofCode op = some o) (body : Frame) :
    (∃ fmt : Format, op ∈ fmt.opcodes ∧ fmt.Fits body) ↔ o.format.Fits body := by
  simp [mem_opcodes_iff, ho]

/-- Settles O5: a legal opcode names its operation, and the frame decodes exactly when it fits the format of that. -/
theorem decodeFollowsTheFormats : Obligations.DecodeFollowsTheFormats := by
  refine ⟨rfl, fun op body => ⟨fun h => decode_of_ofCode_none (ofCode_eq_none_iff.mpr h) body, fun h => ?_⟩⟩
  obtain ⟨o, ho⟩ := Option.ne_none_iff_exists'.mp (mt ofCode_eq_none_iff.mp h)
  have hfits := fits_some_format_iff ho body
  simp only [exists_format_iff, Format.opcodes, Format.Fits, List.mem_singleton] at hfits
  rw [hfits]
  by_cases hf : o.format.Fits body
  · exact .inl ⟨decode_of_fits ho hf, hf⟩
  · exact .inr ⟨decode_of_not_fits ho hf, hf⟩

end Sys2Proof
end

section
/-! SUPPORT. The form of responses (spec R81, R181 to R184), and which error is reported when several apply (R185). -/

namespace Sys2Proof.Machine

/-! Errors of the decoder. -/

/-- The decoder refuses a frame for its length or for an opcode of no operation (R79, R80). -/
theorem decode_error_cases {f : Frame} {e : Error} (h : decode f = .error e) :
    e = .invalidArgument .badLength ∨
    ∃ op body, f = op :: body ∧ (op = 0x00 ∨ 0x0E ≤ op.toNat) ∧ e = .illegalOpcode op := by
  rcases decode_cases f with ⟨-, hf⟩ | ⟨op, body, rfl, ho, hf⟩ | ⟨_, _, _, -, -, -, hf⟩ | ⟨_, _, _, _, -, -, -, hf⟩ <;>
    rw [hf] at h <;> cases h
  · exact .inl rfl
  · exact .inr ⟨op, body, rfl, ofCode_eq_none_iff.mp ho, rfl⟩
  · exact .inl rfl

/-- Settles O9: what the decoder refuses for another reason than an illegal opcode is answered BAD_LENGTH. -/
theorem malformedFramesAreAnsweredAndChangeNothing : Obligations.MalformedFramesAreAnsweredAndChangeNothing := by
  intro s f rest hready hnone hlegal
  cases hd : decode f with
  | ok i => exact absurd hd (hnone i)
  | error e =>
    rcases decode_error_cases hd with rfl | ⟨op, body, hf, hillegal, -⟩
    · exact step_of_decode_error hready hd
    · obtain ⟨hne, hlt⟩ := hlegal op body hf
      exact absurd hillegal (not_or.mpr ⟨hne, Nat.not_le.mpr hlt⟩)

/-! The order of errors (R185). -/

theorem exec_outputRaw_badCount {vals : List Byte} (hl : vals.length ≠ 18) (s : State) :
    exec (.outputRaw vals) s = .next (raise (.invalidArgument .badCount) s) := by
  simp only [exec, execOutputRaw, pwmVecOf_none hl]

/-- A legal opcode whose operand bytes do not fit its format is answered BAD_LENGTH, whatever else is wrong. -/
theorem step_of_not_fits {s : State} {op : Byte} {body : Frame} {rest : List Stimulus} {fmt : Format}
    (hready : s.Ready (op :: body) rest) (hop : op ∈ fmt.opcodes) (hfits : ¬ fmt.Fits body) :
    step s = .next { s with inbox := rest, responses := s.responses ++ [[0x01, 0x01]] } := by
  obtain ⟨o, ho, rfl⟩ := mem_opcodes_iff.mp hop
  exact step_of_decode_error hready (decode_of_not_fits ho hfits)

/-- Settles O46: the decoder checks the opcode, then the length; the operation checks the count first. -/
theorem errorsAreReportedInOrder : Obligations.ErrorsAreReportedInOrder := by
  refine ⟨rfl, fun op body h => decode_of_ofCode_none (ofCode_eq_none_iff.mpr h) body, fun s op body rest hready h => ?_,
    fun ch ents s hl => exec_setChannelCurve_badCount hl ch s,
    fun ch ents s hl hc => exec_setChannelCurve_badChannel hl hc s,
    fun vals s hl _ => ⟨exec_output_badCount hl s, exec_outputRaw_badCount hl s⟩⟩
  have hmisfit : ∃ fmt : Format, op ∈ fmt.opcodes ∧ ¬ fmt.Fits body := by
    simpa only [exists_format_iff, Format.opcodes, Format.Fits, List.mem_singleton, not_exists, not_and] using h
  obtain ⟨fmt, hop, hfits⟩ := hmisfit
  exact step_of_not_fits hready hop hfits

/-! The form of responses. -/

/-- The operation keeps every response in the form of R81. -/
def KeepsResponseForm (f : State → State) : Prop :=
  ∀ s : State, s.responsesShaped = true → (f s).responsesShaped = true

theorem keepsResponseForm_respond {status : Byte} {bytes : List Byte} (h : responseShape (status :: bytes) = true) :
    KeepsResponseForm (respond status bytes) := by
  intro s hs
  rw [State.responsesShaped, respond_responses, List.all_append, Bool.and_eq_true]
  exact ⟨hs, by simpa using h⟩

/-- The result bytes of the thirteen operations have these lengths (R81). -/
theorem keepsResponseForm_respondOk {bytes : List Byte} (h : bytes.length ∈ [0, 1, 3, 18, 256]) :
    KeepsResponseForm (respondOk bytes) :=
  keepsResponseForm_respond (List.contains_iff_mem.mpr h)

theorem keepsResponseForm_invalidArgument (r : Reason) : KeepsResponseForm (raise (.invalidArgument r)) :=
  keepsResponseForm_respond (by cases r <;> rfl)

theorem keepsResponseForm_transport (c : BusCmd) : KeepsResponseForm (raise (.transport c.code)) :=
  keepsResponseForm_respond (by cases c <;> rfl)

theorem keepsResponseForm_illegalOpcode {op : Byte} (h : op = 0x00 ∨ 0x0E ≤ op.toNat) :
    KeepsResponseForm (raise (.illegalOpcode op)) :=
  keepsResponseForm_respond (decide_eq_true h)

theorem KeepsResponseForm.busWrite {k : State → State} (hk : KeepsResponseForm k) (c : BusCmd) :
    KeepsResponseForm (busWrite c k) := by
  intro s hs
  rcases busWrite_cases c k s with ⟨_, e⟩ | ⟨_, e⟩ | ⟨_, e⟩ <;> rw [e]
  · exact hk _ hs
  · exact keepsResponseForm_transport c _ hs
  · exact hs

theorem keepsResponseForm_writeThenLatch (c : BusCmd) : KeepsResponseForm (writeThenLatch c) :=
  ((keepsResponseForm_respondOk (by simp)).busWrite .latch).busWrite c

/-- An operation that sets state of the block and answers with no result bytes. -/
theorem keepsResponseForm_done {f : State → State} (hf : ∀ s, (f s).responses = s.responses) :
    KeepsResponseForm (fun s => respondOk [] (f s)) := by
  intro s hs
  exact keepsResponseForm_respondOk (by simp) (f s) (by rwa [State.responsesShaped, hf])

theorem exec_responsesShaped {i : Instr} {s t : State} (hs : s.responsesShaped = true) (h : exec i s = .next t) :
    t.responsesShaped = true := by
  cases i with
  | enable =>
    cases h
    exact (keepsResponseForm_done (setEnabled_responses true)).busWrite _ s hs
  | disable =>
    cases h
    exact (keepsResponseForm_done (setEnabled_responses false)).busWrite _ s hs
  | reset =>
    cases h
    exact (keepsResponseForm_respondOk (by simp)).busWrite _ s hs
  | enableLeds mask =>
    cases h
    exact keepsResponseForm_writeThenLatch _ s hs
  | output vals =>
    simp only [exec, execOutput] at h
    split at h <;> cases h
    · exact keepsResponseForm_invalidArgument _ s hs
    · exact keepsResponseForm_writeThenLatch _ s hs
  | outputRaw vals =>
    simp only [exec, execOutputRaw] at h
    split at h <;> cases h
    · exact keepsResponseForm_invalidArgument _ s hs
    · exact keepsResponseForm_writeThenLatch _ s hs
  | setChannelCurve ch ents =>
    simp only [exec, execSetChannelCurve] at h
    split at h
    · cases h
      exact keepsResponseForm_invalidArgument _ s hs
    · split at h <;> cases h
      · exact keepsResponseForm_invalidArgument _ s hs
      · exact keepsResponseForm_done (lutWriteOvr_responses _ _) s hs
  | resetToShared exp =>
    simp only [exec, execResetToShared] at h
    split at h <;> cases h
    · exact keepsResponseForm_done clearOverrides_responses (lutWriteShared (gammaGen exp) s) hs
    · exact keepsResponseForm_invalidArgument _ s hs
  | regenDefault exp =>
    simp only [exec, execRegenDefault] at h
    split at h <;> cases h
    · exact keepsResponseForm_done (lutWriteShared_responses _) s hs
    · exact keepsResponseForm_invalidArgument _ s hs
  | encodeMask mask =>
    cases h
    exact keepsResponseForm_respondOk (by simp) s hs
  | encodePwm vals =>
    simp only [exec, execEncodePwm] at h
    split at h <;> cases h
    · exact keepsResponseForm_invalidArgument _ s hs
    · exact keepsResponseForm_respondOk (by simp) s hs
  | generateCurve exp =>
    simp only [exec, execGenerateCurve] at h
    split at h <;> cases h
    · exact keepsResponseForm_respondOk (by simp) s hs
    · exact keepsResponseForm_invalidArgument _ s hs
  | correct ch raw =>
    simp only [exec, execCorrect] at h
    split at h <;> cases h
    · exact keepsResponseForm_invalidArgument _ s hs
    · exact keepsResponseForm_respondOk (by simp) s hs

/-- Settles O38: an idle step and a block reset give no response, and a request is answered by the decoder's error or by its
instruction. -/
theorem everyStepKeepsTheResponseForm : Obligations.EveryStepKeepsTheResponseForm := by
  intro s t hs h
  rcases fetch_cases s with ⟨_, _, hf⟩ | ⟨_, hf⟩ | ⟨rest, _, hf⟩ | ⟨f, rest, hw, hi, hf⟩
  · simp only [step, hf] at h
    cases h
    exact hs
  · simp only [step, hf] at h
    cases h
  · simp only [step, hf] at h
    cases h
    exact hs
  · have hready : s.Ready f rest := ⟨hw, hi⟩
    cases hd : decode f with
    | ok i => exact exec_responsesShaped (s := { s with inbox := rest }) hs (step_of_decode_ok hready hd ▸ h)
    | error e =>
      rw [step_of_decode_error hready hd] at h
      cases h
      rcases decode_error_cases hd with rfl | ⟨op, body, -, hillegal, rfl⟩
      · exact keepsResponseForm_invalidArgument .badLength _ hs
      · exact keepsResponseForm_illegalOpcode hillegal _ hs

end Sys2Proof.Machine
end

section
/-! SUPPORT. The register encoder: the group bytes of a mask as digits to the base 64 of its low 18 bits (spec R101, R103),
and the operations that answer or send an encoded value (R104, R105, R157). -/

namespace Sys2Proof.Machine

/-! The group bytes of a mask (R101, R103). -/

/-- Group byte `g` is digit `g` of the mask to the base 64. -/
theorem encMask_toNat (mask : BitVec 32) (g : Nat) (hg : g < 3) :
    ((encMask mask)[g]).toNat = mask.toNat / 2 ^ (6 * g) % 2 ^ 6 := by
  interval_cases g <;> simp [encMask, Nat.shiftRight_eq_div_pow] <;> omega

/-- The three group bytes in one statement (R101). -/
theorem encMask_digits (mask : BitVec 32) :
    ((encMask mask)[0]).toNat = mask.toNat % 2 ^ 6 ∧ ((encMask mask)[1]).toNat = mask.toNat / 2 ^ 6 % 2 ^ 6 ∧
    ((encMask mask)[2]).toNat = mask.toNat / 2 ^ 12 % 2 ^ 6 :=
  ⟨by simpa using encMask_toNat mask 0 (by decide), encMask_toNat mask 1 (by decide), encMask_toNat mask 2 (by decide)⟩

/-- The low `i` bits of a number, with the next `j` bits put above them, are its low `i + j` bits. -/
theorem mod_or_next_bits (n i j : Nat) : n % 2 ^ i ||| (n / 2 ^ i % 2 ^ j) <<< i = n % 2 ^ (i + j) := by
  rw [Nat.or_comm, ← Nat.shiftLeft_add_eq_or_of_lt (Nat.mod_lt _ (Nat.two_pow_pos i)), Nat.shiftLeft_eq, Nat.pow_add,
    Nat.mod_mul, Nat.mul_comm, Nat.add_comm]

/-- The three group bytes give back the low 18 bits of the mask (R103). -/
theorem or_of_encMask (mask : BitVec 32) :
    ((encMask mask)[0]).toNat ||| ((encMask mask)[1]).toNat <<< 6 ||| ((encMask mask)[2]).toNat <<< 12 =
      mask.toNat % 2 ^ 18 := by
  obtain ⟨h0, h1, h2⟩ := encMask_digits mask
  have hlow : ((encMask mask)[0]).toNat ||| ((encMask mask)[1]).toNat <<< 6 = mask.toNat % 2 ^ 12 := by
    rw [h0, h1]
    exact mod_or_next_bits mask.toNat 6 6
  rw [hlow, h2]
  exact mod_or_next_bits mask.toNat 12 6

/-- The group bytes determine the low 18 bits of the mask and are determined by them (R103). -/
theorem encMask_eq_iff {a b : BitVec 32} : encMask a = encMask b ↔ a.toNat % 2 ^ 18 = b.toNat % 2 ^ 18 := by
  constructor
  · intro h
    rw [← or_of_encMask, ← or_of_encMask, h]
  · refine fun h => Vector.ext fun g hg => BitVec.eq_of_toNat_eq ?_
    rw [encMask_toNat, encMask_toNat]
    interval_cases g <;> omega

/-- Settles O15: the encoder and the low 18 bits determine each other, and a mask up to 0x3FFFF is its low 18 bits. -/
theorem maskEncoderRoundTrip : Obligations.MaskEncoderRoundTrip := by
  refine ⟨fun mask => ⟨fun g => Nat.le_of_lt_succ (encMask_toNat_lt mask g g.isLt), ?_⟩,
    fun a b ha hb h => ?_, fun mask => ?_⟩
  · exact (or_of_encMask mask).trans (Nat.and_two_pow_sub_one_eq_mod mask.toNat 18).symm
  · have hlow : a.toNat % 2 ^ 18 = b.toNat % 2 ^ 18 := encMask_eq_iff.mp h
    exact BitVec.eq_of_toNat_eq (by omega)
  · have hand : (mask &&& 0x3FFFF#32).toNat = mask.toNat % 2 ^ 18 := by
      rw [BitVec.toNat_and]
      exact Nat.and_two_pow_sub_one_eq_mod mask.toNat 18
    rw [encMask_eq_iff, hand, Nat.mod_mod]

theorem encMask_getLsbD_of_lt (mask : BitVec 32) {g b : Nat} (hg : g < 3) (hb : b < 6) :
    ((encMask mask)[g]).getLsbD b = mask.getLsbD (6 * g + b) := by
  simpa [hb] using getLsbD_group_encMask mask hg hb

theorem encMask_getLsbD_of_ge (mask : BitVec 32) {g b : Nat} (hg : g < 3) (hb : 6 ≤ b) :
    ((encMask mask)[g]).getLsbD b = false := by
  have hlt : ((encMask mask)[g]).toNat < 2 ^ b :=
    (encMask_toNat_lt mask g hg).trans_le (Nat.pow_le_pow_right Nat.zero_lt_two hb)
  exact Nat.testBit_lt_two_pow hlt

/-- Settles O14: the group bytes bit by bit, and masks of equal bits 17:0 have equal low 18 bits. -/
theorem maskBitsGoToTheirGroup : Obligations.MaskBitsGoToTheirGroup := by
  intro mask
  obtain ⟨h0, h1, h2⟩ := encMask_digits mask
  refine ⟨h0, h1, h2, fun g b hb => encMask_getLsbD_of_lt mask g.isLt hb,
    fun g b hb => encMask_getLsbD_of_ge mask g.isLt hb, fun other h => ?_⟩
  refine encMask_eq_iff.mpr (Nat.eq_of_testBit_eq fun k => ?_)
  rw [Nat.testBit_mod_two_pow, Nat.testBit_mod_two_pow, BitVec.testBit_toNat, BitVec.testBit_toNat]
  by_cases hk : k < 18
  · rw [h k hk]
  · simp [hk]

/-! The query operations (R104, R105) and OUTPUT_RAW (R157). -/

/-- Settles O16: the answer is the three group bytes, and a body of another length than four does not fit the format. -/
theorem encodeMaskAnswersTheGroupBytes : Obligations.EncodeMaskAnswersTheGroupBytes := by
  refine ⟨fun mask s => ?_, fun _ _ _ _ => rfl, fun body h => decode_of_not_fits (o := .encodeMask) rfl h, by decide⟩
  obtain ⟨h0, h1, h2⟩ := encMask_digits mask
  exact ⟨_, _, _, h0, h1, h2, rfl⟩

theorem exec_encodePwm_ok {vals : List Byte} {v : PwmVec} (hv : pwmVecOf vals = some v) (s : State) :
    exec (.encodePwm vals) s = .next (respondOk v.toList s) := by
  simp only [exec, execEncodePwm, hv, encPwm]

theorem exec_encodePwm_badCount {vals : List Byte} (hl : vals.length ≠ 18) (s : State) :
    exec (.encodePwm vals) s = .next (raise (.invalidArgument .badCount) s) := by
  simp only [exec, execEncodePwm, pwmVecOf_none hl]

/-- Settles O17: eighteen values are the vector they make, and the encoder keeps it. -/
theorem encodePwmAnswersTheVectorUnchanged : Obligations.EncodePwmAnswersTheVectorUnchanged := by
  refine fun vals s => ⟨fun hl => ?_, fun hl => exec_encodePwm_badCount hl s⟩
  obtain ⟨v, hv, rfl⟩ := pwmVecOf_some hl
  exact exec_encodePwm_ok hv s

/-- Settles O34: the values make the vector that is sent, and the latch makes it live. -/
theorem outputRawSendsTheBytesAndLatches : Obligations.OutputRawSendsTheBytesAndLatches := by
  refine fun vals s => ⟨fun hl h0 h1 => ?_, fun hl => exec_outputRaw_badCount hl s⟩
  obtain ⟨v, hv, rfl⟩ := pwmVecOf_some hl
  exact ⟨v, rfl, by rw [exec_outputRaw_ok hv h0 h1, setPwm_then_latch]⟩

end Sys2Proof.Machine
end

section
/-! SUPPORT. The exponent operands and the generated curve (spec R121 to R124), and the three operations that generate one
(R126, R129, R131). -/

namespace Sys2Proof.Machine

/-! Valid exponents (R124). -/

/-- As a number, a valid exponent lies strictly between the bits of +0.0 and those of +infinity. -/
theorem validExponent_iff (x : BitVec 64) : validExponent x = true ↔ 0 < x.toNat ∧ x.toNat < 0x7FF0000000000000 := by
  have hsign : x.getLsbD 63 = false ↔ x.toNat < 2 ^ 63 := by
    rw [← BitVec.msb_eq_getLsbD_last, BitVec.msb_eq_false_iff_two_mul_lt]
    omega
  have hzero : x ≠ 0 ↔ x.toNat ≠ 0 := (BitVec.toNat_inj (y := 0)).not.symm
  have hlt := x.isLt
  simp only [validExponent, Bool.and_eq_true, Bool.not_eq_true', decide_eq_true_eq, hsign, hzero, expField_eq]
  omega

/-! The operations that take an exponent, by its validity. -/

theorem exec_generateCurve_ok {x : BitVec 64} (hx : validExponent x = true) (s : State) :
    exec (.generateCurve x) s = .next (respondOk (gammaGen x).toList s) := by
  rw [exec, execGenerateCurve, if_pos hx]

theorem exec_generateCurve_badExponent {x : BitVec 64} (hx : validExponent x = false) (s : State) :
    exec (.generateCurve x) s = .next (raise (.invalidArgument .badExponent) s) := by
  rw [exec, execGenerateCurve, if_neg (by simp [hx])]

theorem exec_resetToShared_ok {x : BitVec 64} (hx : validExponent x = true) (s : State) :
    exec (.resetToShared x) s = .next (respondOk [] (clearOverrides (lutWriteShared (gammaGen x) s))) := by
  rw [exec, execResetToShared, if_pos hx]

theorem exec_resetToShared_badExponent {x : BitVec 64} (hx : validExponent x = false) (s : State) :
    exec (.resetToShared x) s = .next (raise (.invalidArgument .badExponent) s) := by
  rw [exec, execResetToShared, if_neg (by simp [hx])]

theorem exec_regenDefault_ok {x : BitVec 64} (hx : validExponent x = true) (s : State) :
    exec (.regenDefault x) s = .next (respondOk [] (lutWriteShared (gammaGen x) s)) := by
  rw [exec, execRegenDefault, if_pos hx]

theorem exec_regenDefault_badExponent {x : BitVec 64} (hx : validExponent x = false) (s : State) :
    exec (.regenDefault x) s = .next (raise (.invalidArgument .badExponent) s) := by
  rw [exec, execRegenDefault, if_neg (by simp [hx])]

/-- Settles O18, by the order of the bits and the refusal of each operation. -/
theorem onlyFinitePositiveExponentsAreValid : Obligations.OnlyFinitePositiveExponentsAreValid :=
  ⟨validExponent_iff, fun _ s hx => ⟨exec_resetToShared_badExponent hx s, exec_regenDefault_badExponent hx s,
    exec_generateCurve_badExponent hx s⟩⟩

/-- Settles O22: the answer is the curve, and answering changes the responses alone. -/
theorem generateCurveAnswersTheCurve : Obligations.GenerateCurveAnswersTheCurve :=
  fun _ s hx => exec_generateCurve_ok hx s

/-- Writing the shared curve shows on the channels that are not overridden. -/
theorem lutRead_lutWriteShared (v : Curve) (s : State) (c : Channel) (i : Byte) :
    lutRead (lutWriteShared v s) c i = if s.ovrValid[c] then lutRead s c i else entry v i := by
  cases h : s.ovrValid[c] <;> simp [lutRead, h]

/-- Settles O25: with every mark clear a look-up reads the shared curve. -/
theorem resetToSharedDiscardsEveryOverride : Obligations.ResetToSharedDiscardsEveryOverride := by
  refine fun x s hx => ⟨_, exec_resetToShared_ok hx s, rfl, by simp, fun c i => ?_⟩
  rw [lutRead_respondOk, lutRead_clearOverrides, lutWriteShared_shared, entry]

/-- Settles O26, by what a look-up reads after the shared curve is written. -/
theorem regenDefaultKeepsEveryOverride : Obligations.RegenDefaultKeepsEveryOverride := by
  refine fun x s hx => ⟨_, exec_regenDefault_ok hx s, rfl, fun c i h => ?_, fun c i h => ?_⟩
  · rw [lutRead_respondOk, lutRead_lutWriteShared, if_pos h]
  · rw [lutRead_respondOk, lutRead_lutWriteShared, if_neg (by simp [h]), entry]

/-! The named properties of the generator (R123). -/

theorem gammaEntry_zero (kp p kq q : Nat) : gammaEntry kp p kq q 0 = 0 := if_pos rfl

theorem gammaEntry_255 (kp p kq q : Nat) : gammaEntry kp p kq q 255 = 255 := rfl

/-- What is above a half-integer at an index is so at every greater one. -/
theorem exactAbove_mono {p q i i' j : Nat} (hi : i ≤ i') (h : exactAbove p q i j = true) :
    exactAbove p q i' j = true := by
  have hle : i ^ p * 510 ^ q ≤ i' ^ p * 510 ^ q := Nat.mul_le_mul_right _ (Nat.pow_le_pow_left hi p)
  simp only [exactAbove, Bool.or_eq_true, Bool.and_eq_true, decide_eq_true_eq] at h ⊢
  omega

/-- Were the later entry less, its value would still be above the half-integer over it, as the earlier one's is. -/
theorem gammaEntry_mono {kp p kq q i i' : Nat} (hp : p < 2 ^ kp) (hq : q < 2 ^ kq) (hq0 : q ≠ 0) (hi : i ≤ i')
    (hi' : i' ≤ 255) : gammaEntry kp p kq q i ≤ gammaEntry kp p kq q i' := by
  by_cases h0 : i = 0
  · rw [h0, gammaEntry_zero]
    exact Nat.zero_le _
  by_cases h255 : i' = 255
  · rw [h255, gammaEntry_255]
    exact gammaEntry_le kp p kq q i hp hq
  obtain ⟨hle, hbelow, -⟩ := gammaEntry_spec (i := i) hp hq h0 (by omega)
  obtain ⟨-, -, habove⟩ := gammaEntry_spec (i := i') hp hq (by omega) h255
  by_contra hlt
  have hat : exactAbove p q i' (gammaEntry kp p kq q i') = true :=
    exactAbove_antitone hq0 (by omega) (exactAbove_mono hi (hbelow.resolve_left (by omega)))
  rw [habove (by omega)] at hat
  cases hat

/-- At exponent one the value of entry `i` is `i`. -/
theorem exactAbove_one_one (i j : Nat) : exactAbove 1 1 i j = decide (j < i) := by
  rw [Bool.eq_iff_iff]
  simp only [exactAbove, pow_one, Bool.or_eq_true, Bool.and_eq_true, decide_eq_true_eq]
  omega

theorem gammaEntry_one_one {i : Nat} (hi : i ≤ 255) : gammaEntry 1 1 1 1 i = i := by
  by_cases h0 : i = 0
  · rw [h0, gammaEntry_zero]
  by_cases h255 : i = 255
  · rw [h255, gammaEntry_255]
  have h := gammaEntry_spec (kp := 1) (p := 1) (kq := 1) (q := 1) (by decide) (by decide) h0 h255
  simp only [exactAbove_one_one, decide_eq_true_eq, decide_eq_false_iff_not] at h
  omega

/-- The bits 0x3FF0000000000000 stand for the fraction 1 / 1. -/
theorem expNum_expDen_one : expNum 0x3FF0000000000000#64 = 1 ∧ expDen 0x3FF0000000000000#64 = 1 := by decide +kernel

/-- Settles O20: the ends by definition, the order by that of the values, and the identity at 1.0 by the exact comparison. -/
theorem generatedCurveHasItsNamedProperties : Obligations.GeneratedCurveHasItsNamedProperties := by
  refine ⟨fun x _ => ⟨fun i => Nat.le_of_lt_succ (BitVec.isLt _), ?_, ?_, fun i j hij => ?_⟩, fun i => ?_⟩
  · rw [gammaGen_get, gammaEntry_zero]
    rfl
  · rw [gammaGen_get, gammaEntry_255]
    rfl
  · rw [Fin.getElem_fin, Fin.getElem_fin, gammaGen_toNat, gammaGen_toNat]
    exact gammaEntry_mono Nat.lt_log2_self Nat.lt_log2_self (expDen_pos x).ne' hij (Nat.le_of_lt_succ j.isLt)
  · rw [Fin.getElem_fin, gammaGen_toNat, expNum_expDen_one.1, expNum_expDen_one.2]
    exact gammaEntry_one_one (Nat.le_of_lt_succ i.isLt)

/-! The default curve (R122). The default exponent lies between 15824/11303 and 7/5, close enough together that no entry
differs between them, so the comparisons need the powers of these two fractions only. -/

/-- The greater the exponent, the less the value, as its base is at most one. -/
theorem powerValue_antitone {i : Nat} (h0 : i ≠ 0) (hi : i ≤ 255) : Antitone fun e => powerValue e i := by
  intro e e' he
  have hpos : (0 : ℝ) < i / 255 := div_pos (Nat.cast_pos.mpr (Nat.pos_of_ne_zero h0)) (by norm_num)
  have hle : (i : ℝ) / 255 ≤ 1 := div_le_one_of_le₀ (by exact_mod_cast hi) (by norm_num)
  exact mul_le_mul_of_nonneg_left (Real.rpow_le_rpow_of_exponent_ge hpos hle he) (by norm_num)

/-- What is above a half-integer at an exponent is so at every lesser one. -/
theorem exactAbove_of_exponent_le {p q p' q' i j : Nat} (hq : q ≠ 0) (hq' : q' ≠ 0) (hle : p * q' ≤ p' * q)
    (h0 : i ≠ 0) (hi : i ≤ 255) (h : exactAbove p' q' i j = true) : exactAbove p q i j = true := by
  rw [exactAbove_iff _ _ _ hq'] at h
  rw [exactAbove_iff _ _ _ hq]
  refine h.trans_le (powerValue_antitone h0 hi ?_)
  rw [div_le_div_iff₀ (Nat.cast_pos.mpr (Nat.pos_of_ne_zero hq)) (Nat.cast_pos.mpr (Nat.pos_of_ne_zero hq'))]
  exact_mod_cast hle

/-- The numerator of the default exponent in lowest terms; the denominator is 2^51. -/
def defaultNum : Nat := 3152519739159347

theorem expNum_expDen_default : expNum Config.defaultExp = defaultNum ∧ expDen Config.defaultExp = 2 ^ 51 := by
  decide +kernel

/-- Each entry of the table between the ends is above the half-integer below it at 7/5, and not above the one over it at
15824/11303. -/
theorem defaultCurve_between : ∀ i : Fin 256, i.val ≠ 0 → i.val ≠ 255 →
    (Config.defaultCurve[i].toNat = 0 ∨ exactAbove 7 5 i.val (Config.defaultCurve[i].toNat - 1) = true) ∧
    exactAbove 15824 11303 i.val Config.defaultCurve[i].toNat = false := by
  decide +kernel

theorem gammaEntry_default (i : Fin 256) :
    gammaEntry 52 defaultNum 52 (2 ^ 51) i.val = Config.defaultCurve[i].toNat := by
  by_cases h0 : i.val = 0
  · obtain rfl : i = 0 := Fin.ext h0
    exact gammaEntry_zero _ _ _ _
  by_cases h255 : i.val = 255
  · obtain rfl : i = 255 := Fin.ext h255
    exact gammaEntry_255 _ _ _ _
  have hp : defaultNum < 2 ^ 52 := by decide
  have hq : 2 ^ 51 < 2 ^ 52 := by decide
  have hi : i.val ≤ 255 := Nat.le_of_lt_succ i.isLt
  obtain ⟨hbelow, habove⟩ := defaultCurve_between i h0 h255
  refine gammaEntry_eq hp hq (by decide) h0 h255 (Nat.le_of_lt_succ (BitVec.isLt _)) ?_ ?_
  · rw [roundsAbove_eq_exactAbove hp hq]
    exact hbelow.imp_right (exactAbove_of_exponent_le (by decide) (by decide) (by decide) h0 hi)
  · rw [roundsAbove_eq_exactAbove hp hq, Bool.eq_false_iff]
    intro h
    rw [exactAbove_of_exponent_le (by decide) (by decide) (by decide) h0 hi h] at habove
    cases habove

theorem gammaGen_default : gammaGen Config.defaultExp = Config.defaultCurve := by
  obtain ⟨hp, hq⟩ := expNum_expDen_default
  have hbits : defaultNum.log2 + 1 = 52 ∧ (2 ^ 51).log2 + 1 = 52 := by decide +kernel
  refine Vector.ext fun i hi => BitVec.eq_of_toNat_eq ?_
  rw [gammaGen_toNat, hp, hq, hbits.1, hbits.2]
  exact gammaEntry_default ⟨i, hi⟩

/-- Settles O21: the table holds the generated entries, and the reset value is the table. -/
theorem defaultCurveIsGeneratedAtTheDefaultExponent : Obligations.DefaultCurveIsGeneratedAtTheDefaultExponent :=
  ⟨congrArg Vector.toList gammaGen_default, gammaGen_default.symm⟩

end Sys2Proof.Machine
end

section
/-! SUPPORT. What becomes of `CTL.enabled` (spec R158, R160): an operation run with another value of the flag ends in the same
state but for the flag, which only ENABLE and DISABLE write. And what an operation that ended in an error leaves unchanged
(R161, R183, R184, R186). -/

namespace Sys2Proof.Machine

/-! The operations under another value of the flag. -/

@[simp] theorem setEnabled_self (s : State) : setEnabled s.enabled s = s := rfl

/-- The operation neither reads nor writes the flag. -/
def IgnoresFlag (f : State → State) : Prop := ∀ (b : Bool) (s : State), f (setEnabled b s) = setEnabled b (f s)

theorem ignoresFlag_respondOk (bs : List Byte) : IgnoresFlag (respondOk bs) := fun _ _ => rfl

theorem IgnoresFlag.busWrite {k : State → State} (hk : IgnoresFlag k) (c : BusCmd) : IgnoresFlag (busWrite c k) := by
  intro b s
  rcases busWrite_cases c k s with ⟨h, e⟩ | ⟨h, e⟩ | ⟨h, e⟩ <;> rw [e]
  · exact (busWrite_ok (s := setEnabled b s) h).trans (hk b (issue c .ok s))
  · exact busWrite_fail (s := setEnabled b s) h
  · exact busWrite_never (s := setEnabled b s) h

theorem ignoresFlag_writeThenLatch (c : BusCmd) : IgnoresFlag (writeThenLatch c) :=
  ((ignoresFlag_respondOk []).busWrite .latch).busWrite c

/-- The bus write of ENABLE and DISABLE, after which the flag is set to `on` if the write returned ok (R152, R153). -/
def writeFlag (on : Bool) : State → State := busWrite (.outputEnable on) fun t => respondOk [] (setEnabled on t)

theorem exec_enable (s : State) : exec .enable s = .next (writeFlag true s) := rfl

theorem exec_disable (s : State) : exec .disable s = .next (writeFlag false s) := rfl

theorem writeFlag_setEnabled (on b : Bool) (s : State) :
    writeFlag on (setEnabled b s) = setEnabled (if s.reply 0 = .ok then on else b) (writeFlag on s) := by
  rcases busWrite_cases (.outputEnable on) (fun t => respondOk [] (setEnabled on t)) s with ⟨h, e⟩ | ⟨h, e⟩ | ⟨h, e⟩ <;>
    rw [writeFlag, e, h]
  · exact busWrite_ok (s := setEnabled b s) h
  · exact busWrite_fail (s := setEnabled b s) h
  · exact busWrite_never (s := setEnabled b s) h

/-- The flag after the instruction, run in `s` with the flag at `b` (R160). -/
def flagAfter (i : Instr) (s : State) (b : Bool) : Bool :=
  match i with
  | .enable => if s.reply 0 = .ok then true else b
  | .disable => if s.reply 0 = .ok then false else b
  | _ => b

theorem flagAfter_of_other {i : Instr} (he : i ≠ .enable) (hd : i ≠ .disable) (s : State) (b : Bool) :
    flagAfter i s b = b := by
  cases i with
  | enable => exact absurd rfl he
  | disable => exact absurd rfl hd
  | _ => rfl

/-- Every instruction does the same whatever the flag is, but for the flag itself (R158). -/
theorem exec_setEnabled (i : Instr) (s : State) (b : Bool) :
    ∃ t, exec i s = .next t ∧ exec i (setEnabled b s) = .next (setEnabled (flagAfter i s b) t) := by
  cases i with
  | enable => exact ⟨_, exec_enable s, congrArg _ (writeFlag_setEnabled true b s)⟩
  | disable => exact ⟨_, exec_disable s, congrArg _ (writeFlag_setEnabled false b s)⟩
  | reset => exact ⟨_, rfl, congrArg _ ((ignoresFlag_respondOk []).busWrite .deviceReset b s)⟩
  | enableLeds mask => exact ⟨_, rfl, congrArg _ (ignoresFlag_writeThenLatch _ b s)⟩
  | output vals =>
    simp only [exec, execOutput]
    split
    · exact ⟨_, rfl, rfl⟩
    · exact ⟨_, rfl, congrArg _ (ignoresFlag_writeThenLatch _ b s)⟩
  | outputRaw vals =>
    simp only [exec, execOutputRaw]
    split
    · exact ⟨_, rfl, rfl⟩
    · exact ⟨_, rfl, congrArg _ (ignoresFlag_writeThenLatch _ b s)⟩
  | setChannelCurve ch ents =>
    simp only [exec, execSetChannelCurve]
    split
    · exact ⟨_, rfl, rfl⟩
    · split <;> exact ⟨_, rfl, rfl⟩
  | resetToShared exp =>
    simp only [exec, execResetToShared]
    split <;> exact ⟨_, rfl, rfl⟩
  | regenDefault exp =>
    simp only [exec, execRegenDefault]
    split <;> exact ⟨_, rfl, rfl⟩
  | encodeMask mask => exact ⟨_, rfl, rfl⟩
  | encodePwm vals =>
    simp only [exec, execEncodePwm]
    split <;> exact ⟨_, rfl, rfl⟩
  | generateCurve exp =>
    simp only [exec, execGenerateCurve]
    split <;> exact ⟨_, rfl, rfl⟩
  | correct ch raw =>
    simp only [exec, execCorrect]
    split <;> exact ⟨_, rfl, rfl⟩

/-! The step. -/

theorem step_setEnabled {s t : State} (b : Bool) (h : step s = .next t) :
    ∃ b', step (setEnabled b s) = .next (setEnabled b' t) := by
  rcases fetch_cases s with ⟨hi, hw, hf⟩ | ⟨_, hf⟩ | ⟨rest, hi, hf⟩ | ⟨f, rest, hw, hi, hf⟩
  · simp only [step, hf] at h
    cases h
    exact ⟨b, by simp [step, fetch, hi, hw]⟩
  · simp only [step, hf] at h
    cases h
  · simp only [step, hf] at h
    cases h
    exact ⟨false, by rw [step, fetch_blockReset (s := setEnabled b s) hi]; rfl⟩
  · have hready : s.Ready f rest := ⟨hw, hi⟩
    have hready' : (setEnabled b s).Ready f rest := ⟨hw, hi⟩
    cases hd : decode f with
    | error e =>
      rw [step_of_decode_error hready hd] at h
      cases h
      exact ⟨b, step_of_decode_error hready' hd⟩
    | ok i =>
      obtain ⟨u, hu, hu'⟩ := exec_setEnabled i { s with inbox := rest } b
      rw [step_of_decode_ok hready hd, hu] at h
      cases h
      exact ⟨_, (step_of_decode_ok hready' hd).trans hu'⟩

/-- Settles O40: every instruction does the same under either value, and whether a step stops shows in the port and the hang
alone. -/
theorem behaviourIgnoresTheEnabledFlag : Obligations.BehaviourIgnoresTheEnabledFlag := by
  refine fun s b => ⟨fun t h => step_setEnabled b h, fun r h => ?_⟩
  rw [step_eq_fault_iff, fetch_eq_stuck_iff] at h ⊢
  exact h

/-! The flag after an instruction. -/

/-- The flag an instruction leaves, by running it with the flag it finds (R160). -/
theorem exec_enabled {i : Instr} {s t : State} (h : exec i s = .next t) : t.enabled = flagAfter i s s.enabled := by
  obtain ⟨u, hu, hu'⟩ := exec_setEnabled i s s.enabled
  rw [setEnabled_self, h] at hu'
  cases hu'
  rfl

/-- Settles O41, by the flag after each instruction. -/
theorem enabledFlagTransitions : Obligations.EnabledFlagTransitions :=
  ⟨fun _ _ => exec_enabled, fun _ _ => exec_enabled,
    fun _ s _ he hd h => (exec_enabled h).trans (flagAfter_of_other he hd s s.enabled), blockReset_enabled⟩

/-! Operations that ended in an error. -/

/-- An operation that accepted its operands answers OK, or a transport error of one of its bus writes. -/
theorem Ending.status_cases {n : Nat} {s t : State} {status : Byte} {body : List Byte} (h : Ending n s t)
    (hresponse : t.responses = s.responses ++ [status :: body]) : status = 0x00 ∨ status = 0x02 ∧ 0 < n := by
  cases h with
  | completed bytes _ _ hresponses =>
    obtain ⟨hstatus, -⟩ := List.cons.inj (response_unique hresponse hresponses)
    exact .inl hstatus
  | failed code _ _ hresponses hsome hmost =>
    obtain ⟨hstatus, -⟩ := List.cons.inj (response_unique hresponse hresponses)
    exact .inr ⟨hstatus, by omega⟩
  | hung _ _ hresponses => simp [hresponses] at hresponse

/-- An operation answered InvalidArgument refused its operands and did nothing else (R183). -/
theorem eq_raise_of_invalidArgument {i : Instr} {s t : State} {body : List Byte} (h : exec i s = .next t)
    (hresponse : t.responses = s.responses ++ [0x01 :: body]) : ∃ r, t = raise (.invalidArgument r) s := by
  rcases exec_ending h with hraise | ending
  · exact hraise
  · rcases ending.status_cases hresponse with hstatus | ⟨hstatus, -⟩ <;> simp at hstatus

/-- An operation answered TransportError makes bus writes (R184). -/
theorem busWrites_pos_of_transportError {i : Instr} {s t : State} {body : List Byte} (h : exec i s = .next t)
    (hresponse : t.responses = s.responses ++ [0x02 :: body]) : 0 < busWritesOnSuccess i := by
  rcases exec_ending h with ⟨r, rfl⟩ | ending
  · simp [errorStatus] at hresponse
  · rcases ending.status_cases hresponse with hstatus | ⟨-, hpos⟩
    · simp at hstatus
    · exact hpos

theorem writesGlut_eq_false_of_busWrites_pos {i : Instr} (h : 0 < busWritesOnSuccess i) : writesGlut i = false := by
  cases i with
  | setChannelCurve | resetToShared | regenDefault => cases h
  | _ => rfl

theorem writeFlag_responses_of_ok {on : Bool} {s : State} (h : s.reply 0 = .ok) :
    (writeFlag on s).responses = s.responses ++ [[0x00]] := by
  rw [writeFlag, busWrite_ok h]
  rfl

/-- The flag changes only in an operation answered OK (R152, R153). -/
theorem enabled_kept_of_status_ne_ok {i : Instr} {s t : State} {status : Byte} {body : List Byte} (hstatus : status ≠ 0x00)
    (h : exec i s = .next t) (hresponse : t.responses = s.responses ++ [status :: body]) : t.enabled = s.enabled := by
  have hwrite (on : Bool) (ht : t = writeFlag on s) : s.reply 0 ≠ .ok := fun h0 => by
    subst ht
    exact hstatus (List.cons.inj (response_unique hresponse (writeFlag_responses_of_ok h0))).1
  rw [exec_enabled h]
  cases i with
  | enable =>
    cases h
    exact if_neg (hwrite true rfl)
  | disable =>
    cases h
    exact if_neg (hwrite false rfl)
  | _ => rfl

/-- Settles O45: a refusal is the response alone, and a transport error comes from an operation that writes no table, before
it writes the flag. -/
theorem errorsLeaveTheBlockAsItWas : Obligations.ErrorsLeaveTheBlockAsItWas := by
  refine fun i s t body h => ⟨fun hresponse => ?_, fun hresponse => ?_⟩
  · obtain ⟨r, rfl⟩ := eq_raise_of_invalidArgument h hresponse
    rfl
  · exact ⟨enabled_kept_of_status_ne_ok (by decide) h hresponse,
      exec_sameTables (writesGlut_eq_false_of_busWrites_pos (busWrites_pos_of_transportError h hresponse)) h⟩

end Sys2Proof.Machine
end

section
/-! SUPPORT. How a step ends, and the answer to an illegal opcode (spec R180, R182, R186, R221). -/

namespace Sys2Proof.Machine

/-- Settles O8: a byte that names no operation is what the decoder refuses as an illegal opcode, and the step of a ready block
answers the decoder's error. -/
theorem illegalOpcodeIsAnsweredAndChangesNothing : Obligations.IllegalOpcodeIsAnsweredAndChangesNothing := by
  intro s op body rest hready hillegal
  exact step_of_decode_error hready (decode_of_ofCode_none (ofCode_eq_none_iff.mpr hillegal) body)

/-- The two ways a step can end: a next state, or the one fault of a block stuck in a bus write (R186, R221). -/
theorem step_next_or_stuck (s : State) :
    (∃ t, step s = .next t) ∨ (fetch s = .stuck ∧ step s = .fault .busWriteNeverReturned) := by
  cases hf : fetch s with
  | idle => exact .inl ⟨s, by simp only [step, hf]⟩
  | stuck => exact .inr ⟨rfl, by simp only [step, hf]⟩
  | blockReset t => exact .inl ⟨blockReset t, by simp only [step, hf]⟩
  | request f t =>
    cases hd : decode f with
    | error e => exact .inl ⟨raise e t, by simp only [step, hf, hd]⟩
    | ok i =>
      obtain ⟨u, hu⟩ := exec_next i t
      exact .inl ⟨u, by simp only [step, hf, hd, hu]⟩

/-- Settles O10: every meaning answers a next state, so a step that does not is the fault of a hung block. -/
theorem onlyAHangStops : Obligations.OnlyAHangStops := by
  refine ⟨exec_next, fun s hwaiting => ?_, fun s r hrefused => ?_⟩
  · rcases step_next_or_stuck s with hnext | ⟨hstuck, -⟩
    · exact hnext
    · exact absurd hwaiting ((fetch_eq_stuck_iff s).mp hstuck).1
  · rcases step_next_or_stuck s with ⟨t, ht⟩ | ⟨-, ht⟩ <;> rw [ht] at hrefused <;> cases hrefused

end Sys2Proof.Machine
end

section
/-! SUPPORT. The block hung in a bus write, the record at reset, and the block reset input (spec R210 to R212, R221, R222). -/

namespace Sys2Proof.Machine

/-- Settles O12: such a block is stuck, and a stuck block stops with the one fault. -/
theorem hungBlockTakesNoFurtherStep : Obligations.HungBlockTakesNoFurtherStep := by
  intro s hhung hnoreset
  exact (step_eq_fault_iff s _).mpr ⟨(fetch_eq_stuck_iff s).mpr ⟨hhung, hnoreset⟩, rfl⟩

/-! The record of what was observed. -/

/-- An empty bus log owes no latch. -/
theorem busLatched_of_busLog_nil {s : State} (h : s.busLog = []) : s.busLatched = true := by
  rw [State.busLatched, h]
  rfl

theorem busInTable_of_busLog_nil {s : State} (h : s.busLog = []) : s.busInTable = true := by
  rw [State.busInTable, h, List.all_nil]

theorem responsesShaped_of_responses_nil {s : State} (h : s.responses = []) : s.responsesShaped = true := by
  rw [State.responsesShaped, h, List.all_nil]

/-- Settles O39: both records are empty at reset. -/
theorem recordInvariantsHoldAtReset : Obligations.RecordInvariantsHoldAtReset :=
  ⟨busLatched_of_busLog_nil reset_busLog, busInTable_of_busLog_nil reset_busLog,
    responsesShaped_of_responses_nil reset_responses⟩

/-! The block reset input. -/

/-- A step that takes the reset input does the block reset and nothing else (R210). -/
theorem step_blockReset {s : State} {rest : List Stimulus} (hi : s.inbox = .blockReset :: rest) :
    step s = .next (blockReset { s with inbox := rest }) := by
  rw [step, fetch_blockReset hi]

theorem blockReset_not_overridden (s : State) (c : Channel) : (blockReset s).ovrValid[c] = false := by
  simp

/-- With every mark clear, every channel reads the default curve. -/
theorem lutRead_blockReset (s : State) (c : Channel) (i : Byte) :
    lutRead (blockReset s) c i = entry Config.defaultCurve i := by
  rw [lutRead_of_not_overridden (blockReset_not_overridden s c), blockReset_shared]

/-- Settles O54: the step is the block reset, which clears every mark, so that look-ups read the default curve, and keeps the
bus log, the device, the transport and the responses. -/
theorem blockResetRestoresTheBlockAlone : Obligations.BlockResetRestoresTheBlockAlone :=
  fun _ _ hi => ⟨_, step_blockReset hi, blockReset_inbox _, blockReset_waiting _, blockReset_enabled _, blockReset_shared _,
    blockReset_not_overridden _, lutRead_blockReset _, blockReset_busLog _, blockReset_dev _, blockReset_transport _,
    blockReset_responses _⟩

end Sys2Proof.Machine
end
